-- ==== Sys2Proof/Config.lean ====
section
/-! DEFINITION. What is fixed for the machine (R5), the switch of decision D12, and the free values. -/

namespace Sys2Proof.Config

/-- `MEM_SIZE`: bytes of memory (R5, R50). -/
abbrev memSize : Nat := 4096

/-- `ADDR_MASK`, the largest address (R5, R52). -/
abbrev addrMask : Nat := 0xFFF

/-- `PROG_BASE`: load address of the program image and reset value of pc (R5). -/
abbrev progBase : Nat := 0x200

/-- `NREGS` (R5). -/
abbrev nRegs : Nat := 16

/-- `REG_WIDTH`: bits of a V register, of a timer (R5), and of a byte of memory (R34). -/
abbrev regWidth : Nat := 8

/-- `I_WIDTH`: bits of the index register (R5). -/
abbrev iWidth : Nat := 16

/-- `PC_WIDTH`: bits of pc and of a stack entry (R5). -/
abbrev pcWidth : Nat := 16

/-- `STACK_DEPTH` (R5, R29). -/
abbrev stackDepth : Nat := 16

/-- `GFX_W` (R5). -/
abbrev gfxW : Nat := 64

/-- `GFX_H` (R5). -/
abbrev gfxH : Nat := 32

/-- `NKEYS` (R5). -/
abbrev nKeys : Nat := 16

/-- `INSTR_BYTES`: length of every instruction (R5, R70). -/
abbrev instrBytes : Nat := 2

/-- `GLYPH_STRIDE`: bytes of a font glyph (R5, R132). -/
abbrev glyphStride : Nat := 5

/-- `TICK_NOMINAL`: the nominal rate of the `Tick` event in Hz. R5: no rule depends on it, so nothing here does. -/
abbrev tickNominal : Nat := 60

/-- The longest image a Load accepts: 4096 - 0x200 bytes (R192, D22). -/
abbrev maxImage : Nat := memSize - progBase

/-- What a byte of memory that nothing has written reads as: 0x00 (R37, R41). -/
abbrev unlistedByte : BitVec (delta% regWidth) := 0

/-- Whether the row Fx0A (`LD Vx, K`) is implemented: it is, by decision D12, which asks that it be easy to
switch off. DESIGN CHOICE of the spec; log 8. -/
abbrev hasKeyWait : Bool := true

/-- FREE VALUE (log 1): the k-th random byte the environment supplies (R121, R175, D14). No body: any byte. -/
opaque randomByte : Nat → BitVec (delta% regWidth)

/-- FREE VALUE (log 9): the `info` of a LoadFailure whose image length is not known (R161: "image length if
known"), for a failure that is the k-th output. No body: any number. -/
opaque unknownImageLength : Nat → Nat

end Sys2Proof.Config
end

