-- ==== Sys2Proof/Word.lean ====
section
/-! DEFINITION. The value types of the machine, each made from the constant of R5 that names its width or its count
(R9, R20, R21, R31, R33). `delta% c` is the value of the constant `c`, so the types read as numerals in proofs. -/

namespace Sys2Proof

/-- A byte: a V register, a timer (R5 `REG_WIDTH`, R20), a byte of memory (R34). -/
abbrev Byte := BitVec (delta% Config.regWidth)

/-- A 16-bit value: `pc`, a stack entry (R5 `PC_WIDTH`, R20), an instruction word (R70). -/
abbrev Word := BitVec (delta% Config.pcWidth)

/-- The value of the index register (R5 `I_WIDTH`, R24). -/
abbrev Index := BitVec (delta% Config.iWidth)

/-- A register number 0..15; every value is legal (R5 `NREGS`, R21, R84). -/
abbrev RegIdx := Fin (delta% Config.nRegs)

/-- A key number 0..15 (R5 `NKEYS`, R33). -/
abbrev KeyIdx := Fin (delta% Config.nKeys)

/-- A column of the framebuffer (R5 `GFX_W`, R31). -/
abbrev Col := Fin (delta% Config.gfxW)

/-- A row of the framebuffer (R5 `GFX_H`, R31). -/
abbrev Row := Fin (delta% Config.gfxH)

/-- The number of VF, the flag register (R22). -/
abbrev vf : RegIdx := 15

end Sys2Proof
end

