-- ==== Sys2Proof/Machine/State.lean ====
section
/-! DEFINITION. The machine's state (R20, R36), the events that drive it (R170), what they output (R160), why a
step can stop, and the state after reset (R37). -/

namespace Sys2Proof.Machine

/-- Memory: (address, byte) pairs in canonical form (`Memory.wf`); an unlisted address reads
`Config.unlistedByte` (R34, R37). -/
abbrev Memory := List Host.Cell

/-- The canonical form: addresses strictly rising and inside the 4096-byte space, and no byte listed that an
unlisted address would read as. -/
abbrev Memory.wf (m : Memory) : Prop :=
  List.Pairwise (fun c d : Host.Cell => c.1 < d.1) m ∧
    ∀ c ∈ m, c.1 < Config.memSize ∧ c.2 ≠ Config.unlistedByte

/-- The framebuffer: 32 rows of 64 pixels, `true` is on (R31). -/
abbrev Gfx := Vector (Vector Bool (delta% Config.gfxW)) (delta% Config.gfxH)

/-- The keypad vector, `true` is held down (R33). -/
abbrev Keys := Vector Bool (delta% Config.nKeys)

/-- The error kinds (R161). -/
inductive ErrorKind where
  | loadFailure
  | unknownOpcode
  | stackOverflow
  | stackUnderflow
  | addrOutOfRange
  | keyIndexOutOfRange
  deriving DecidableEq, Repr

/-- One record of the reporting channel: `(code, at, info)` (R160). `atPc` is the pc the instruction of the
step was fetched from. -/
structure Report where
  kind : ErrorKind
  atPc : Word
  info : Nat
  deriving DecidableEq, Repr

/-- What an event can output (R170). -/
inductive Output where
  /-- A record of a `Step` (R160). -/
  | report (r : Report)
  /-- A `Load` that succeeded (R170). -/
  | loadSuccess
  /-- A `Load` that failed, error kind `loadFailure`; `info` is the image length if known (R161, log 9). -/
  | loadFailed (info : Nat)
  /-- The pulse of the `Tick` that takes ST from 1 to 0 (R174). -/
  | soundStop
  /-- The pixels a `Snapshot` returns, row by row, left to right (R147). -/
  | pixels (flat : List Bool)
  deriving DecidableEq, Repr

/-- The events of the core (R170). The random byte of `Step` is `Config.randomByte` (log 1). -/
inductive Event where
  | reset
  /-- `image` is `none` when the source is unreadable (R192). -/
  | load (image : Option (List Byte)) (base : Nat)
  | step
  | tick
  | keyWrite (keys : Keys)
  | drawAck
  | snapshot
  deriving DecidableEq, Repr

/-- Where the host stands in its launch contract (R179, R192, R194). The model's own; log 4. -/
inductive Phase where
  /-- After `Reset`, before the first `Step`: `Load` is allowed. -/
  | fresh
  /-- A `Step` has been taken since the last `Reset`. -/
  | running
  /-- A `Load` failed since the last `Reset`: execution must not proceed (R161). -/
  | loadFailed
  deriving DecidableEq, Repr

/-- The machine state. The first eleven fields are the spec's Machine State (R20), and R36 says there is no
other; the last four are the model's own and hold the inputs and outputs of events (logs 1 to 4). -/
structure State where
  /-- `memory` (R34). -/
  mem : Memory
  /-- V0..VF (R21). -/
  v : Vector Byte (delta% Config.nRegs)
  /-- The index register (R24). -/
  i : Index
  /-- The program counter (R25). -/
  pc : Word
  /-- The return stack (R28). -/
  stack : Vector Word (delta% Config.stackDepth)
  /-- The number of stack entries in use, 0..16 (R29). -/
  sp : Fin ((delta% Config.stackDepth) + 1)
  /-- `delay_timer` (R30). -/
  dt : Byte
  /-- `sound_timer` (R30). -/
  st : Byte
  /-- The framebuffer (R31). -/
  gfx : Gfx
  /-- The redraw flag (R32). -/
  drawFlag : Bool
  /-- The keypad (R33). -/
  keypad : Keys
  /-- Model: how many random bytes have been drawn (log 1). -/
  draws : Nat
  /-- Model: the events the host has chosen to come next; when empty the next event is a `Step` (log 2). -/
  schedule : List Event
  /-- Model: everything output so far, oldest first (log 3). -/
  outputs : List Output
  /-- Model: the host's launch phase (log 4). -/
  phase : Phase
  deriving DecidableEq, Repr

/-- Why a step faults. No instruction does. -/
inductive Fault where
  /-- Raised by a `Load` event after the first `Step` of a run, a move the host must not make (R64, R179). Safe:
  the model stops where a host outside its contract would write memory. -/
  | loadDuringRun
  deriving DecidableEq, Repr

/-- Why a step has no meaning. -/
inductive Refusal where
  /-- An instruction whose meaning is not written yet; no arm of `exec` gives it. Safe. -/
  | notModelled (mnemonic : String)
  /-- Raised by a `Step` event after a failed `Load` and before the next `Reset`: "execution must not proceed"
  (R161, R192; 93_implementation_defined.md row 6 says refuse). Safe. -/
  | stepAfterLoadFailure
  deriving DecidableEq, Repr

/-- How an event or an instruction ends. -/
abbrev Result := Host.Outcome State Fault Refusal

/-- The state after the `Reset` event: everything zero except pc = 0x200 (R37, R190). The four fields of the
model start empty (logs 1 to 4). -/
def State.reset : State where
  mem := []
  v := Vector.replicate _ 0
  i := 0
  pc := BitVec.ofNat _ Config.progBase
  stack := Vector.replicate _ 0
  sp := 0
  dt := 0
  st := 0
  gfx := Vector.replicate _ (Vector.replicate _ false)
  drawFlag := false
  keypad := Vector.replicate _ false
  draws := 0
  schedule := []
  outputs := []
  phase := .fresh

end Sys2Proof.Machine
end

