-- ==== Sys2Proof/Machine/Ops.lean ====
section
/-! DEFINITION. The named operations over outputs, memory, registers, pc and stack (R10). -/

namespace Sys2Proof.Machine

/-! ### Outputs and reports (R160)

This machine has no exceptions (R167, R169): what other machines raise is here a record on the reporting channel,
and `State.report` is the one operation that makes it. It saves nothing, changes no mode and diverts nothing; the
instruction goes on at its next line (R10). -/

/-- The code of an error kind (R161, D15). -/
def ErrorKind.code : ErrorKind → Nat
  | .loadFailure => 0
  | .unknownOpcode => 1
  | .stackOverflow => 2
  | .stackUnderflow => 3
  | .addrOutOfRange => 4
  | .keyIndexOutOfRange => 5

/-- The record `(code, at, info)` the reporting channel carries (R160). -/
def Report.toRecord (r : Report) : Nat × Word × Nat := (r.kind.code, r.atPc, r.info)

/-- Append one output. -/
def State.emit (o : Output) (s : State) : State := { s with outputs := s.outputs ++ [o] }

/-- `report E(info)`: `at` is the pc the instruction was fetched from, which pc still holds (R25, R160). -/
def State.report (kind : ErrorKind) (info : Nat) (s : State) : State := s.emit (.report ⟨kind, s.pc, info⟩)

/-! ### Memory (R50 to R54) -/

/-- The byte listed for address `a`, or what an unlisted address reads as. -/
def Memory.get : Memory → Nat → Byte
  | [], _ => Config.unlistedByte
  | c :: m, a => if c.1 = a then c.2 else Memory.get m a

/-- Insert a cell before the first cell of a higher address. -/
def Memory.insert (a : Nat) (b : Byte) : Memory → Memory
  | [] => [(a, b)]
  | c :: m => if a < c.1 then (a, b) :: c :: m else c :: Memory.insert a b m

/-- Drop every cell of address `a`. -/
def Memory.erase (a : Nat) : Memory → Memory
  | [] => []
  | c :: m => if c.1 = a then Memory.erase a m else c :: Memory.erase a m

/-- Set the byte at address `a`, keeping the canonical form. -/
def Memory.set (m : Memory) (a : Nat) (b : Byte) : Memory :=
  if b = Config.unlistedByte then m.erase a else (m.erase a).insert a b

/-- The byte `a mod 4096` of memory (R52). -/
def State.peek (s : State) (a : Nat) : Byte := s.mem.get (a % Config.memSize)

/-- Set the byte `a mod 4096` of memory (R53). -/
def State.poke (a : Nat) (b : Byte) (s : State) : State := { s with mem := s.mem.set (a % Config.memSize) b }

/-- Report AddrOutOfRange(a) for an access at `a` above 0xFFF (R52, R53, R65). -/
def State.checkAddr (a : Nat) (s : State) : State := if a > Config.addrMask then s.report .addrOutOfRange a else s

/-- `checkAddr` for several accesses in the order of the list. -/
def State.checkAddrs : List Nat → State → State
  | [], s => s
  | a :: as, s => State.checkAddrs as (s.checkAddr a)

/-- `MemWrite(a, 1, b)` (R53). -/
def State.memWrite (a : Nat) (b : Byte) (s : State) : State := (s.checkAddr a).poke a b

/-- `MemWrite` of the bytes of a list at `a`, `a + 1`, ... in ascending order (R54, R57). -/
def State.memWriteList : Nat → List Byte → State → State
  | _, [], s => s
  | a, b :: bs, s => State.memWriteList (a + 1) bs (s.memWrite a b)

/-- Set the bytes of a list at `a`, `a + 1`, ... with no report: the host's own copy (R192). -/
def State.pokeList : Nat → List Byte → State → State
  | _, [], s => s
  | a, b :: bs, s => State.pokeList (a + 1) bs (s.poke a b)

/-! ### Registers (R21, R23, R24) -/

/-- `V[x]`. -/
def State.readV (s : State) (x : RegIdx) : Byte := s.v[x.val]

/-- `V[x] <- b`. -/
def State.writeV (x : RegIdx) (b : Byte) (s : State) : State := { s with v := s.v.set x.val b }

/-- `I <- a`. -/
def State.writeI (a : Index) (s : State) : State := { s with i := a }

/-! ### Program counter (R25, R26, R108) -/

/-- `pc <- t`. -/
def State.jumpTo (t : Word) (s : State) : State := { s with pc := t }

/-- `pc <- (pc + 2) & 0xFFFF`: past the instruction, INSTR_BYTES on (R25, R26). -/
def State.advance (s : State) : State := s.jumpTo (s.pc + BitVec.ofNat _ (delta% Config.instrBytes))

/-- The skip pattern: pc + 4 if the condition holds, else pc + 2 (R108). -/
def State.skipIf (cond : Bool) (s : State) : State :=
  s.jumpTo (if cond then s.pc + BitVec.ofNat _ (2 * delta% Config.instrBytes) else s.pc + BitVec.ofNat _ (delta% Config.instrBytes))

/-! ### The return stack (R28, R29) -/

/-- `stack[sp] <- t; sp <- sp + 1` for a stack that is not full. -/
def State.push (t : Word) (s : State) (h : s.sp.val < delta% Config.stackDepth) : State :=
  { s with stack := s.stack.set s.sp.val t h, sp := ⟨s.sp.val + 1, by omega⟩ }

/-- The most recent return address `stack[sp - 1]` of a stack that is not empty. -/
def State.top (s : State) (_h : s.sp.val ≠ 0) : Word := s.stack[s.sp.val - 1]'(by omega)

/-- `sp <- sp - 1` for a stack that is not empty; the entry keeps its value (R28). -/
def State.pop (s : State) (_ : s.sp.val ≠ 0) : State := { s with sp := ⟨s.sp.val - 1, by omega⟩ }

/-! ### An unknown instruction word (R78) -/

/-- Report the word and advance pc by 2; nothing else changes. -/
def State.unknownWord (w : Word) (s : State) : State := (s.report .unknownOpcode w.toNat).advance

end Sys2Proof.Machine
end

