-- ==== Sys2Proof/Machine/Flags.lean ====
section
/-! DEFINITION. Every flag computation (R22), and the one write that puts the result first and the flag last (R23). -/

namespace Sys2Proof.Machine

/-- A flag is stored in VF as 0 or 1 (R22). -/
def flagByte (b : Bool) : Byte := if b then 1 else 0

/-- Carry of the 9-bit sum: `a + b > 255` (R116, R122). -/
def carryOut (a b : Byte) : Bool := decide (a.toNat + b.toNat > 255)

/-- No borrow in `a - b`: `a >= b` (R117, R119, R122). -/
def noBorrow (a b : Byte) : Bool := decide (a.toNat ≥ b.toNat)

/-- The bit a right shift moves out, `a[0]` (R118). -/
def shiftedOutRight (a : Byte) : Bool := a.getLsbD 0

/-- The bit a left shift moves out, `a[7]` (R120). -/
def shiftedOutLeft (a : Byte) : Bool := a.getLsbD 7

/-- The sum of `ADD I, Vx` passes the top of memory (R131). -/
def indexOverflow (sum : Nat) : Bool := decide (sum > Config.addrMask)

/-- `VF <- flag`. -/
def State.writeFlag (flag : Bool) (s : State) : State := s.writeV vf (flagByte flag)

/-- Write the result to `V[x]`, then the flag to VF; with x = 0xF the flag survives (R23, D4, log 10). -/
def State.writeResult (x : RegIdx) (result : Byte) (flag : Bool) (s : State) : State :=
  (s.writeV x result).writeFlag flag

end Sys2Proof.Machine
end

