-- ==== Sys2Proof/Machine/Operands.lean ====
section
/-! DEFINITION. The operand forms: immediates (R74), the addressing mode (R136), register blocks (R134, R135), key
numbers (R152, R156). -/

namespace Sys2Proof.Machine

/-- `zext_16(nnn)` (R74). -/
def zext16 (nnn : BitVec 12) : Word := nnn.setWidth _

/-- The effective address `I + k`, an unbounded integer (R136). -/
def State.addr (s : State) (k : Nat) : Nat := s.i.toNat + k

/-- The addresses `I`, `I + 1`, ..., `I + n - 1` of an n-byte access (R57, R136). -/
def State.addrs (s : State) (n : Nat) : List Nat := (List.range n).map s.addr

/-- The registers V0..Vx of a block move, ascending (R134, R135). -/
def regsUpTo (x : RegIdx) : List RegIdx := (List.finRange _).filter (fun k => decide (k ≤ x))

/-- The address of glyph `b`: the whole byte times 5 (R132). -/
def glyphAddr (b : Byte) : Index := BitVec.ofNat _ (b.toNat * Config.glyphStride)

/-- The three decimal digits of a byte: hundreds, tens, ones (R133). -/
def decimalDigits (b : Byte) : List Byte :=
  [BitVec.ofNat _ (b.toNat / 100), BitVec.ofNat _ (b.toNat / 10 % 10), BitVec.ofNat _ (b.toNat % 10)]

/-- `KeyDown(b)` without its report: a number above 15 names no key, so it is not pressed (R156, D11). -/
def State.keyDown (s : State) (b : Byte) : Bool := if h : b.toNat < delta% Config.nKeys then s.keypad[b.toNat] else false

/-- The report of `KeyDown(b)`: KeyIndexOutOfRange(b) when b > 15 (R156). -/
def State.checkKey (b : Byte) (s : State) : State :=
  if b.toNat ≥ delta% Config.nKeys then s.report .keyIndexOutOfRange b.toNat else s

/-- The smallest key that is down, if any is (R152). -/
def State.lowestKey (s : State) : Option KeyIdx := (List.finRange _).find? (fun k => s.keypad[k.val])

/-- The random byte of this `Step`: a free value (R121, R175, log 1). -/
def State.randomByte (s : State) : Byte := Config.randomByte s.draws

/-- The draw is used up: the next one is independent of it (R121). -/
def State.advanceDraw (s : State) : State := { s with draws := s.draws + 1 }

end Sys2Proof.Machine
end

