-- ==== Sys2Proof/Machine/Alu.lean ====
section
/-! DEFINITION. Register load, arithmetic, logic, shift and random instructions (41_alu.md). Operands are read from
the state before the instruction (R23, R123); each instruction advances pc by 2 on its own (R124). -/

namespace Sys2Proof.Machine

/-- `LD Vx, nn` (R110). -/
def execLdImm (x : RegIdx) (nn : Byte) (s : State) : Result := .next (s.writeV x nn).advance

/-- `ADD Vx, nn` (R111): no flag. -/
def execAddImm (x : RegIdx) (nn : Byte) (s : State) : Result := .next (s.writeV x (s.readV x + nn)).advance

/-- `LD Vx, Vy` (R112). -/
def execLdReg (x y : RegIdx) (s : State) : Result := .next (s.writeV x (s.readV y)).advance

/-- `OR Vx, Vy` (R113): VF unchanged (D23). -/
def execOrReg (x y : RegIdx) (s : State) : Result := .next (s.writeV x (s.readV x ||| s.readV y)).advance

/-- `AND Vx, Vy` (R114): VF unchanged (D23). -/
def execAndReg (x y : RegIdx) (s : State) : Result := .next (s.writeV x (s.readV x &&& s.readV y)).advance

/-- `XOR Vx, Vy` (R115): VF unchanged (D23). -/
def execXorReg (x y : RegIdx) (s : State) : Result := .next (s.writeV x (s.readV x ^^^ s.readV y)).advance

/-- `ADD Vx, Vy` (R116): VF is the carry. -/
def execAddReg (x y : RegIdx) (s : State) : Result :=
  .next (s.writeResult x (s.readV x + s.readV y) (carryOut (s.readV x) (s.readV y))).advance

/-- `SUB Vx, Vy` (R117): VF is 1 when there is no borrow. -/
def execSub (x y : RegIdx) (s : State) : Result :=
  .next (s.writeResult x (s.readV x - s.readV y) (noBorrow (s.readV x) (s.readV y))).advance

/-- `SHR Vx` (R118): y is ignored. -/
def execShr (x _y : RegIdx) (s : State) : Result :=
  .next (s.writeResult x (s.readV x >>> 1) (shiftedOutRight (s.readV x))).advance

/-- `SUBN Vx, Vy` (R119): Vy minus Vx. -/
def execSubn (x y : RegIdx) (s : State) : Result :=
  .next (s.writeResult x (s.readV y - s.readV x) (noBorrow (s.readV y) (s.readV x))).advance

/-- `SHL Vx` (R120): y is ignored. -/
def execShl (x _y : RegIdx) (s : State) : Result :=
  .next (s.writeResult x (s.readV x <<< 1) (shiftedOutLeft (s.readV x))).advance

/-- `RND Vx, nn` (R121): the random byte is a free value (log 1). -/
def execRnd (x : RegIdx) (nn : Byte) (s : State) : Result :=
  .next ((s.writeV x (s.randomByte &&& nn)).advanceDraw).advance

end Sys2Proof.Machine
end

