-- ==== Sys2Proof/Machine/Display.lean ====
section
/-! DEFINITION. The Display Plane (R142 to R147) and its two instructions, CLS and DRW (43_display.md). -/

namespace Sys2Proof.Machine

/-- Column `c mod GFX_W` (R144). -/
def wrapX (c : Nat) : Col := ⟨c % delta% Config.gfxW, Nat.mod_lt _ (by decide)⟩

/-- Row `r mod GFX_H` (R144). -/
def wrapY (r : Nat) : Row := ⟨r % delta% Config.gfxH, Nat.mod_lt _ (by decide)⟩

/-- `gfx[px, py]` (R10, R31). -/
def Gfx.pixel (g : Gfx) (px : Col) (py : Row) : Bool := g[py.val][px.val]

/-- `gfx[px, py] <- gfx[px, py] ^ 1`. -/
def Gfx.flip (g : Gfx) (px : Col) (py : Row) : Gfx :=
  g.set py.val (g[py.val].set px.val (!g[py.val][px.val]))

/-- The framebuffer with every pixel off. -/
def Gfx.blank : Gfx := Vector.replicate _ (Vector.replicate _ false)

/-- The sprite bit of column offset c: bit 7 - c (R143, D10, log 7). -/
def spriteBit (row : Byte) (c : Nat) : Bool := row.getLsbD (7 - c)

/-- The body of the blit's inner loop: sprite row `row` at row offset r, column offset c (R142). -/
def blitBit (xo yo r : Nat) (row : Byte) (acc : Gfx × Bool) (c : Nat) : Gfx × Bool :=
  if spriteBit row c then
    (acc.1.flip (wrapX (xo + c)) (wrapY (yo + r)), acc.2 || acc.1.pixel (wrapX (xo + c)) (wrapY (yo + r)))
  else acc

/-- One sprite row: c = 0, 1, ..., 7 (R142). -/
def blitRow (xo yo r : Nat) (row : Byte) (acc : Gfx × Bool) : Gfx × Bool :=
  (List.range 8).foldl (blitBit xo yo r row) acc

/-- The sprite rows of a list, the first at row offset r (R142). -/
def blitRows (xo yo : Nat) : Nat → List Byte → Gfx × Bool → Gfx × Bool
  | _, [], acc => acc
  | r, row :: rows, acc => blitRows xo yo (r + 1) rows (blitRow xo yo r row acc)

/-- `blit(xo, yo, rows)`: the new framebuffer and whether a set pixel was turned off (R142, R145). -/
def Gfx.blit (g : Gfx) (xo yo : Byte) (rows : List Byte) : Gfx × Bool :=
  blitRows xo.toNat yo.toNat 0 rows (g, false)

/-- The snapshot as a flat list: pixel (px, py) is element `py * 64 + px` (R147, D20). -/
def Gfx.flat (g : Gfx) : List Bool := (g.toList.map Vector.toList).flatten

/-- Put a new framebuffer in place and set drawFlag (R32, D18). -/
def State.redraw (g : Gfx) (s : State) : State := { s with gfx := g, drawFlag := true }

/-- `CLS` (R140). -/
def execCls (s : State) : Result := .next (s.redraw Gfx.blank).advance

/-- The n sprite rows at I (R141). -/
def State.spriteRows (s : State) (n : Nat) : List Byte := (s.addrs n).map s.peek

/-- `DRW Vx, Vy, n` (R141): coordinates and rows are read first, VF is written last. -/
def execDrw (x y : RegIdx) (n : Fin 16) (s : State) : Result :=
  let drawn := s.gfx.blit (s.readV x) (s.readV y) (s.spriteRows n.val)
  .next ((((s.checkAddrs (s.addrs n.val)).redraw drawn.1).writeFlag drawn.2).advance)

end Sys2Proof.Machine
end

