-- ==== Sys2Proof/Machine/Flow.lean ====
section
/-! DEFINITION. Control transfer: RET, JP, CALL, the four compare skips, JP V0 (40_flow.md). -/

namespace Sys2Proof.Machine

/-- `RET` (R100): an empty stack is reported and skipped (D5). -/
def execRet (s : State) : Result :=
  .next (if h : s.sp.val = 0 then (s.report .stackUnderflow 0).advance else ((s.pop h).jumpTo (s.top h)).advance)

/-- `JP nnn` (R101). -/
def execJp (nnn : BitVec 12) (s : State) : Result := .next (s.jumpTo (zext16 nnn))

/-- `CALL nnn` (R102): pushes its own address; a full stack is reported and the call skipped (D5). -/
def execCall (nnn : BitVec 12) (s : State) : Result :=
  .next (if h : s.sp.val < delta% Config.stackDepth then (s.push s.pc h).jumpTo (zext16 nnn) else (s.report .stackOverflow 0).advance)

/-- `SE Vx, nn` (R103). -/
def execSeImm (x : RegIdx) (nn : Byte) (s : State) : Result := .next (s.skipIf (s.readV x == nn))

/-- `SNE Vx, nn` (R104). -/
def execSneImm (x : RegIdx) (nn : Byte) (s : State) : Result := .next (s.skipIf (s.readV x != nn))

/-- `SE Vx, Vy` (R105). -/
def execSeReg (x y : RegIdx) (s : State) : Result := .next (s.skipIf (s.readV x == s.readV y))

/-- `SNE Vx, Vy` (R106). -/
def execSneReg (x y : RegIdx) (s : State) : Result := .next (s.skipIf (s.readV x != s.readV y))

/-- `JP V0, nnn` (R107): the sum is not masked to 12 bits (D27). -/
def execJpV0 (nnn : BitVec 12) (s : State) : Result :=
  .next (s.jumpTo (zext16 nnn + (s.readV 0).setWidth _))

end Sys2Proof.Machine
end

