-- ==== Sys2Proof/Machine/Index.lean ====
section
/-! DEFINITION. Index register and memory instructions (42_index_memory.md). -/

namespace Sys2Proof.Machine

/-- `LD I, nnn` (R130). -/
def execLdI (nnn : BitVec 12) (s : State) : Result := .next (s.writeI (zext16 nnn)).advance

/-- `ADD I, Vx` (R131): the sum is masked to 12 bits and VF says whether it passed 0xFFF; nothing is reported. -/
def execAddI (x : RegIdx) (s : State) : Result :=
  let sum := s.addr (s.readV x).toNat
  .next ((s.writeI (BitVec.ofNat _ (sum % Config.memSize))).writeFlag (indexOverflow sum)).advance

/-- `LD F, Vx` (R132). -/
def execLdF (x : RegIdx) (s : State) : Result := .next (s.writeI (glyphAddr (s.readV x))).advance

/-- `LD B, Vx` (R133). -/
def execLdB (x : RegIdx) (s : State) : Result :=
  .next (s.memWriteList (s.addr 0) (decimalDigits (s.readV x))).advance

/-- `LD [I], Vx` (R134): V0..Vx to I, I + 1, ...; I unchanged. -/
def execStRegs (x : RegIdx) (s : State) : Result :=
  .next (s.memWriteList (s.addr 0) ((regsUpTo x).map s.readV)).advance

/-- `V[k] <- MemRead(I + k, 1)` for each k of the list, in its order (R52, R135). -/
def State.loadRegs : List RegIdx → State → State
  | [], s => s
  | k :: ks, s => State.loadRegs ks ((s.checkAddr (s.addr k.val)).writeV k (s.peek (s.addr k.val)))

/-- `LD Vx, [I]` (R135). -/
def execLdRegs (x : RegIdx) (s : State) : Result := .next (s.loadRegs (regsUpTo x)).advance

end Sys2Proof.Machine
end

