-- ==== Sys2Proof/Machine/KeypadTimers.lean ====
section
/-! DEFINITION. Keypad and timer instructions (44_keypad_timers.md). -/

namespace Sys2Proof.Machine

/-- `SKP Vx` (R150). -/
def execSkp (x : RegIdx) (s : State) : Result :=
  .next ((s.checkKey (s.readV x)).skipIf (s.keyDown (s.readV x)))

/-- `SKNP Vx` (R151). -/
def execSknp (x : RegIdx) (s : State) : Result :=
  .next ((s.checkKey (s.readV x)).skipIf (!s.keyDown (s.readV x)))

/-- `LD Vx, K` (R152): while no key is down pc stands still and nothing changes. -/
def execLdVxK (x : RegIdx) (s : State) : Result :=
  match s.lowestKey with
  | some k => .next (s.writeV x (BitVec.ofNat _ k.val)).advance
  | none => .next s

/-- `LD Vx, DT` (R153). -/
def execLdVxDt (x : RegIdx) (s : State) : Result := .next (s.writeV x s.dt).advance

/-- `LD DT, Vx` (R154). -/
def execLdDtVx (x : RegIdx) (s : State) : Result := .next { s with dt := s.readV x }.advance

/-- `LD ST, Vx` (R155). -/
def execLdStVx (x : RegIdx) (s : State) : Result := .next { s with st := s.readV x }.advance

end Sys2Proof.Machine
end

