-- ==== Sys2Proof/Syntax.lean ====
section
/-! DEFINITION. The 34 instructions, one constructor a row of spec/opcode_table.json, in the table's order (R76). -/

namespace Sys2Proof

/-- An instruction with its operand fields as R72 cuts them: `x`, `y` register numbers, `n` a row count,
`nn` an 8-bit immediate, `nnn` a 12-bit immediate. -/
inductive Instr where
  /-- 00E0 `CLS` (R140). -/
  | cls
  /-- 00EE `RET` (R100). -/
  | ret
  /-- 1nnn `JP nnn` (R101). -/
  | jp (nnn : BitVec 12)
  /-- 2nnn `CALL nnn` (R102). -/
  | call (nnn : BitVec 12)
  /-- 3xnn `SE Vx, nn` (R103). -/
  | seImm (x : RegIdx) (nn : Byte)
  /-- 4xnn `SNE Vx, nn` (R104). -/
  | sneImm (x : RegIdx) (nn : Byte)
  /-- 5xy0 `SE Vx, Vy` (R105). -/
  | seReg (x y : RegIdx)
  /-- 6xnn `LD Vx, nn` (R110). -/
  | ldImm (x : RegIdx) (nn : Byte)
  /-- 7xnn `ADD Vx, nn` (R111). -/
  | addImm (x : RegIdx) (nn : Byte)
  /-- 8xy0 `LD Vx, Vy` (R112). -/
  | ldReg (x y : RegIdx)
  /-- 8xy1 `OR Vx, Vy` (R113). -/
  | orReg (x y : RegIdx)
  /-- 8xy2 `AND Vx, Vy` (R114). -/
  | andReg (x y : RegIdx)
  /-- 8xy3 `XOR Vx, Vy` (R115). -/
  | xorReg (x y : RegIdx)
  /-- 8xy4 `ADD Vx, Vy` (R116). -/
  | addReg (x y : RegIdx)
  /-- 8xy5 `SUB Vx, Vy` (R117). -/
  | sub (x y : RegIdx)
  /-- 8xy6 `SHR Vx` (R118); the field y is kept so that no bit of the word is lost, and is ignored. -/
  | shr (x y : RegIdx)
  /-- 8xy7 `SUBN Vx, Vy` (R119). -/
  | subn (x y : RegIdx)
  /-- 8xyE `SHL Vx` (R120); the field y is kept and ignored. -/
  | shl (x y : RegIdx)
  /-- 9xy0 `SNE Vx, Vy` (R106). -/
  | sneReg (x y : RegIdx)
  /-- Annn `LD I, nnn` (R130). -/
  | ldI (nnn : BitVec 12)
  /-- Bnnn `JP V0, nnn` (R107). -/
  | jpV0 (nnn : BitVec 12)
  /-- Cxnn `RND Vx, nn` (R121). -/
  | rnd (x : RegIdx) (nn : Byte)
  /-- Dxyn `DRW Vx, Vy, n` (R141). -/
  | drw (x y : RegIdx) (n : Fin 16)
  /-- Ex9E `SKP Vx` (R150). -/
  | skp (x : RegIdx)
  /-- ExA1 `SKNP Vx` (R151). -/
  | sknp (x : RegIdx)
  /-- Fx07 `LD Vx, DT` (R153). -/
  | ldVxDt (x : RegIdx)
  /-- Fx0A `LD Vx, K` (R152). -/
  | ldVxK (x : RegIdx)
  /-- Fx15 `LD DT, Vx` (R154). -/
  | ldDtVx (x : RegIdx)
  /-- Fx18 `LD ST, Vx` (R155). -/
  | ldStVx (x : RegIdx)
  /-- Fx1E `ADD I, Vx` (R131). -/
  | addI (x : RegIdx)
  /-- Fx29 `LD F, Vx` (R132). -/
  | ldF (x : RegIdx)
  /-- Fx33 `LD B, Vx` (R133). -/
  | ldB (x : RegIdx)
  /-- Fx55 `LD [I], Vx` (R134). -/
  | stRegs (x : RegIdx)
  /-- Fx65 `LD Vx, [I]` (R135). -/
  | ldRegs (x : RegIdx)
  deriving DecidableEq, Repr

end Sys2Proof
end

