-- ==== Sys2Proof/Machine/Events.lean ====
section
/-! DEFINITION. The events other than `Step` (R170): Reset, Load, Tick, KeyWrite, DrawAck, Snapshot, and the level
output sound_active. -/

namespace Sys2Proof.Machine

/-- `Reset` (R190): every item of the Machine State to its reset value, and the launch phase fresh; the model's
record of inputs and outputs goes on (logs 1 to 4). -/
def State.resetEvent (s : State) : State :=
  { State.reset with draws := s.draws, schedule := s.schedule, outputs := s.outputs }

/-- An image of `len` bytes at `base` can be loaded: at most 3584 bytes, and inside memory (R161, R192, D22; for a
base other than 0x200, log 9). -/
def loadFits (base len : Nat) : Bool := decide (len ≤ Config.maxImage ∧ base + len ≤ Config.memSize)

/-- A `Load` fails: it is output, nothing is written, execution must not proceed (R161, R164, R192). -/
def State.failLoad (info : Nat) (s : State) : State := { s.emit (.loadFailed info) with phase := .loadFailed }

/-- `Load(image, base)` (R170, R192, R193). During a run the host has no such move (R64, R179). -/
def State.loadEvent (image : Option (List Byte)) (base : Nat) (s : State) : Result :=
  if s.phase = .running then .fault .loadDuringRun
  else
    match image with
    | none => .next (s.failLoad (Config.unknownImageLength s.outputs.length))
    | some bytes =>
      if loadFits base bytes.length then .next ((s.pokeList base bytes).emit .loadSuccess)
      else .next (s.failLoad bytes.length)

/-- One decrement opportunity: 0 stays 0 (R172). -/
def tickDown (c : Byte) : Byte := if c = 0 then 0 else c - 1

/-- `Tick` (R172, R174). -/
def State.tickEvent (s : State) : State :=
  let ticked := { s with dt := tickDown s.dt, st := tickDown s.st }
  if s.st = 1 then ticked.emit .soundStop else ticked

/-- `KeyWrite(keys)` (R176). -/
def State.keyWriteEvent (keys : Keys) (s : State) : State := { s with keypad := keys }

/-- `DrawAck` (R177). -/
def State.drawAckEvent (s : State) : State := { s with drawFlag := false }

/-- `Snapshot` (R147): outputs the pixels and changes no state of the core. -/
def State.snapshotEvent (s : State) : State := s.emit (.pixels s.gfx.flat)

/-- The level output `sound_active` (R174, D19). -/
def State.soundActive (s : State) : Bool := s.st != 0

end Sys2Proof.Machine
end

