-- ==== Sys2Proof/WellFormed.lean ====
section
/-! DEFINITION. Which instructions the machine has. Every value of every field is legal (R84) and the field types
hold exactly those values, so the one check is whether the key wait is implemented (D12). -/

namespace Sys2Proof

/-- `i` is an instruction of the machine whose key-wait switch is `keyWait` (R84, D12). -/
def Instr.wellFormedIn (keyWait : Bool) : Instr → Bool
  | .cls => true
  | .ret => true
  | .jp _ => true
  | .call _ => true
  | .seImm _ _ => true
  | .sneImm _ _ => true
  | .seReg _ _ => true
  | .ldImm _ _ => true
  | .addImm _ _ => true
  | .ldReg _ _ => true
  | .orReg _ _ => true
  | .andReg _ _ => true
  | .xorReg _ _ => true
  | .addReg _ _ => true
  | .sub _ _ => true
  | .shr _ _ => true
  | .subn _ _ => true
  | .shl _ _ => true
  | .sneReg _ _ => true
  | .ldI _ => true
  | .jpV0 _ => true
  | .rnd _ _ => true
  | .drw _ _ _ => true
  | .skp _ => true
  | .sknp _ => true
  | .ldVxDt _ => true
  | .ldVxK _ => keyWait
  | .ldDtVx _ => true
  | .ldStVx _ => true
  | .addI _ => true
  | .ldF _ => true
  | .ldB _ => true
  | .stRegs _ => true
  | .ldRegs _ => true

/-- `i` is an instruction of this machine. -/
abbrev Instr.WellFormed (i : Instr) : Prop := i.wellFormedIn Config.hasKeyWait = true

end Sys2Proof
end

