-- ==== Sys2Proof/Machine/Fetch.lean ====
section
/-! DEFINITION. Instruction fetch (R71), and putting an instruction where the next fetch reads it. -/

namespace Sys2Proof.Machine

/-- The word at pc, high byte first; both addresses are masked to 12 bits (R55, R71). -/
def State.fetchedWord (s : State) : Word := wordOfBytes (s.peek s.pc.toNat) (s.peek (s.pc.toNat + 1))

/-- The reports of the fetch: first the byte at pc, then the byte at pc + 1 (R71, R166). -/
def State.fetchReports (s : State) : State := s.checkAddrs [s.pc.toNat, s.pc.toNat + 1]

/-- `s` with the word stored at pc and pc + 1 and the next event a `Step` that the launch contract allows:
nothing else changes (log 5). -/
def State.placeWord (w : Word) (s : State) : State :=
  let stored := (s.poke s.pc.toNat (highByte w)).poke (s.pc.toNat + 1) (lowByte w)
  { stored with schedule := [], phase := if s.phase = .loadFailed then .fresh else s.phase }

end Sys2Proof.Machine
end

