-- ==== Sys2Proof/Machine/CoreStep.lean ====
section
/-! DEFINITION. The `Step` event (R81) and the delivery of one event of the schedule (R170). -/

namespace Sys2Proof.Machine

/-- The state an instruction is executed from: a run is under way and the fetch has made its reports (R81). -/
def State.afterFetch (s : State) : State := { s with phase := .running }.fetchReports

/-- Execute a decoded word: the instruction's rule, or the rule of unknown words (R78, R81). -/
def State.execDecoded (s : State) (w : Word) : Result :=
  match decode w with
  | .ok i => exec i s
  | .error _ => .next (s.unknownWord w)

/-- The `Step` event: fetch, decode, execute (R81). After a failed Load it has no meaning (R161, log 4). -/
def State.coreStep (s : State) : Result :=
  if s.phase = .loadFailed then .refused .stepAfterLoadFailure
  else s.afterFetch.execDecoded s.fetchedWord

/-- What one event does (R170). -/
def State.deliver (s : State) : Event → Result
  | .reset => .next s.resetEvent
  | .load image base => s.loadEvent image base
  | .step => s.coreStep
  | .tick => .next s.tickEvent
  | .keyWrite keys => .next (s.keyWriteEvent keys)
  | .drawAck => .next s.drawAckEvent
  | .snapshot => .next s.snapshotEvent

end Sys2Proof.Machine
end

