-- ==== Sys2Proof/Machine/Step.lean ====
section
/-! DEFINITION. One event: the head of the schedule, or a `Step` when the schedule is empty (R171, log 2). -/

namespace Sys2Proof.Machine

/-- One event. -/
def step (s : State) : Host.Outcome State Fault Refusal :=
  match s.schedule with
  | [] => s.coreStep
  | e :: rest => { s with schedule := rest }.deliver e

/-- `s` with the instruction of `nbits` bits that spec/opcode_table.json numbers `w` stored where the next step
fetches, and that step a `Step` event (log 5). -/
def State.withFetchWord (s : State) (nbits w : Nat) : State := s.placeWord (tableWord nbits w)

end Sys2Proof.Machine
end

