-- ==== Sys2Proof/Safety.lean ====
section
/-! DEFINITION. The terms claims are stated in: what is left unchanged (frames), what is reported, the invariant of
every reachable state, a report-free step, and the tables of R22 and R25. -/

namespace Sys2Proof.Safety

open Sys2Proof.Machine

/-! ### Frames -/

/-- Every byte of memory reads as before. -/
def SameMemory (s t : State) : Prop := ∀ a, t.peek a = s.peek a

/-- Every byte of memory reads as before but those at the addresses of the list, taken mod 4096 (R53). -/
def SameMemoryExcept (as : List Nat) (s t : State) : Prop :=
  ∀ a, (∀ b ∈ as, a % Config.memSize ≠ b % Config.memSize) → t.peek a = s.peek a

/-- Every V register is as before but those of the list. -/
def SameRegsExcept (xs : List RegIdx) (s t : State) : Prop := ∀ r, r ∉ xs → t.readV r = s.readV r

/-- The return stack is as before. -/
def SameStack (s t : State) : Prop := t.stack = s.stack ∧ t.sp = s.sp

/-- Both timers are as before. -/
def SameTimers (s t : State) : Prop := t.dt = s.dt ∧ t.st = s.st

/-- The framebuffer and drawFlag are as before. -/
def SameDisplay (s t : State) : Prop := t.gfx = s.gfx ∧ t.drawFlag = s.drawFlag

/-- The keypad is as before, and so is the host's side: its schedule and its launch phase. -/
def SameHost (s t : State) : Prop := t.keypad = s.keypad ∧ t.schedule = s.schedule ∧ t.phase = s.phase

/-- Nothing was output. -/
def Quiet (s t : State) : Prop := t.outputs = s.outputs

/-- All but the V registers, pc, the index register and the outputs is as before: the frame of an instruction
that computes in registers. -/
def SameOutsideRegs (s t : State) : Prop :=
  SameMemory s t ∧ SameStack s t ∧ SameTimers s t ∧ SameDisplay s t ∧ SameHost s t ∧ t.draws = s.draws

/-- All but pc and the outputs is as before. -/
def SameButPc (s t : State) : Prop := SameRegsExcept [] s t ∧ t.i = s.i ∧ SameOutsideRegs s t

/-! ### Reports -/

/-- The AddrOutOfRange reports of byte accesses at a list of unmasked addresses, in its order, by the instruction
fetched from `at_` (R52, R53, R65, R160). -/
def rangeReports (at_ : Word) (as : List Nat) : List Output :=
  (as.filter (fun a => decide (a > Config.addrMask))).map (fun a => .report ⟨.addrOutOfRange, at_, a⟩)

/-- The addresses `a`, `a + 1`, ..., `a + n - 1`. -/
def addrRun (a n : Nat) : List Nat := (List.range n).map (fun k => a + k)

/-- An instruction's words: a word is that instruction, with the fields R72 cuts from it, if and only if
`op & mask = match` (R75, R76). -/
def Encoding (pattern mask : Word) (instr : Word → Instr) : Prop :=
  ∀ w, w &&& mask = pattern ↔ decode w = .ok (instr w)

/-! ### Shapes of effect -/

/-- `i` completes by the skip pattern: pc + 4 if `cond` holds, else pc + 2, both mod 2^16, and nothing else
changes (R26, R108). -/
def Skips (i : Instr) (cond : Prop) (s : State) : Prop :=
  ∃ t, exec i s = .next t ∧ (cond → t.pc = s.pc + 4) ∧ (¬ cond → t.pc = s.pc + 2) ∧ SameButPc s t ∧ Quiet s t

/-- `i` completes with `result` in `V[x]` and pc advanced by 2, and nothing else changes. -/
def Puts (i : Instr) (x : RegIdx) (result : Nat) (s : State) : Prop :=
  ∃ t, exec i s = .next t ∧ (t.readV x).toNat = result ∧ t.pc = s.pc + 2 ∧ t.i = s.i ∧ SameRegsExcept [x] s t ∧
    SameOutsideRegs s t ∧ Quiet s t

/-- `i` completes with `result` in `V[x]`, then 1 or 0 in VF as `flag` holds or not, and pc advanced by 2, and
nothing else changes; with x = 0xF the flag is what VF holds (R22, R23). -/
def PutsWithFlag (i : Instr) (x : RegIdx) (result : Nat) (flag : Prop) (s : State) : Prop :=
  ∃ t, exec i s = .next t ∧ (x ≠ vf → (t.readV x).toNat = result) ∧ (flag → (t.readV vf).toNat = 1) ∧
    (¬ flag → (t.readV vf).toNat = 0) ∧ t.pc = s.pc + 2 ∧ t.i = s.i ∧ SameRegsExcept [x, vf] s t ∧
    SameOutsideRegs s t ∧ Quiet s t

/-- The addresses of the bytes an instruction stores to, before masking (R57); the empty list for one that
stores nothing. -/
def storedAddrs (i : Instr) (s : State) : List Nat :=
  match i with
  | .ldB _ => addrRun s.i.toNat 3
  | .stRegs x => addrRun s.i.toNat (x.val + 1)
  | .cls | .ret | .jp _ | .call _ | .seImm _ _ | .sneImm _ _ | .seReg _ _ | .ldImm _ _ | .addImm _ _ | .ldReg _ _
  | .orReg _ _ | .andReg _ _ | .xorReg _ _ | .addReg _ _ | .sub _ _ | .shr _ _ | .subn _ _ | .shl _ _
  | .sneReg _ _ | .ldI _ | .jpV0 _ | .rnd _ _ | .drw _ _ _ | .skp _ | .sknp _ | .ldVxDt _ | .ldVxK _ | .ldDtVx _
  | .ldStVx _ | .addI _ | .ldF _ | .ldRegs _ => []

/-- Key number `k` names a key that is down; a number above 15 names none (R156). -/
def KeyIsDown (s : State) (k : Nat) : Prop := ∃ h : k < 16, s.keypad[k] = true

/-- A set bit of the sprite lands on pixel (px, py): row r, column offset c with bit 7 - c of the row set, at
column (xo + c) mod 64 and row (yo + r) mod 32 (R142, R143, R144). -/
def SpriteCovers (xo yo : Nat) (rows : List Byte) (px : Fin 64) (py : Fin 32) : Prop :=
  ∃ r c row, c < 8 ∧ rows[r]? = some row ∧ row.toNat / 2 ^ (7 - c) % 2 = 1 ∧ px.val = (xo + c) % 64 ∧
    py.val = (yo + r) % 32

/-! ### The invariant of reachable states (R24, R38) -/

/-- Memory is in canonical form, and I is at most 0xFFF. (That sp is at most 16 and a pixel is 0 or 1 holds of
every state by its type.) -/
def Inv (s : State) : Prop := s.mem.wf ∧ s.i.toNat ≤ 0xFFF

/-! ### Report-free steps (R185, R202) -/

/-- The next event is a `Step` that the launch contract allows: the schedule is empty or begins with `step`, and
no Load has failed. -/
def StepsNext (s : State) : Prop :=
  (s.schedule = [] ∨ s.schedule.head? = some .step) ∧ s.phase ≠ .loadFailed

/-- The operands of an instruction meet the conditions of R202 in the state it is executed from. -/
def OperandsInBounds (i : Instr) (s : State) : Prop :=
  match i with
  | .drw _ _ n => n.val = 0 ∨ s.i.toNat + n.val - 1 ≤ 0xFFF
  | .ldB _ => s.i.toNat + 2 ≤ 0xFFF
  | .stRegs x => s.i.toNat + x.val ≤ 0xFFF
  | .ldRegs x => s.i.toNat + x.val ≤ 0xFFF
  | .skp x => (s.readV x).toNat ≤ 15
  | .sknp x => (s.readV x).toNat ≤ 15
  | .call _ => s.sp.val < 16
  | .ret => 0 < s.sp.val
  | .cls | .jp _ | .seImm _ _ | .sneImm _ _ | .seReg _ _ | .ldImm _ _ | .addImm _ _ | .ldReg _ _ | .orReg _ _
  | .andReg _ _ | .xorReg _ _ | .addReg _ _ | .sub _ _ | .shr _ _ | .subn _ _ | .shl _ _ | .sneReg _ _ | .ldI _
  | .jpV0 _ | .rnd _ _ | .ldVxDt _ | .ldVxK _ | .ldDtVx _ | .ldStVx _ | .addI _ | .ldF _ => True

/-! ### The tables of R22 and R25 -/

/-- R22: the condition under which an instruction writes 1 to VF as a flag (it writes 0 otherwise), on the state
before it; `none` for an instruction that writes no flag. -/
def flagOf (i : Instr) (s : State) : Option Prop :=
  match i with
  | .addReg x y => some ((s.readV x).toNat + (s.readV y).toNat > 255)
  | .sub x y => some ((s.readV x).toNat ≥ (s.readV y).toNat)
  | .shr x _ => some ((s.readV x).toNat % 2 = 1)
  | .subn x y => some ((s.readV y).toNat ≥ (s.readV x).toNat)
  | .shl x _ => some ((s.readV x).toNat / 128 = 1)
  | .drw x y n => some (∃ px py, SpriteCovers (s.readV x).toNat (s.readV y).toNat
      ((addrRun s.i.toNat n.val).map s.peek) px py ∧ s.gfx.pixel px py = true)
  | .addI x => some (s.i.toNat + (s.readV x).toNat > 0xFFF)
  | .cls | .ret | .jp _ | .call _ | .seImm _ _ | .sneImm _ _ | .seReg _ _ | .ldImm _ _ | .addImm _ _ | .ldReg _ _
  | .orReg _ _ | .andReg _ _ | .xorReg _ _ | .sneReg _ _ | .ldI _ | .jpV0 _ | .rnd _ _ | .skp _ | .sknp _
  | .ldVxDt _ | .ldVxK _ | .ldDtVx _ | .ldStVx _ | .ldF _ | .ldB _ | .stRegs _ | .ldRegs _ => none

/-- The V registers an instruction names as its destination, the flag write of R22 apart. -/
def destRegs : Instr → List RegIdx
  | .ldImm x _ | .addImm x _ | .ldReg x _ | .orReg x _ | .andReg x _ | .xorReg x _ | .addReg x _ | .sub x _
  | .shr x _ | .subn x _ | .shl x _ | .rnd x _ | .ldVxDt x | .ldVxK x => [x]
  | .ldRegs x => regsUpTo x
  | .cls | .ret | .jp _ | .call _ | .seImm _ _ | .sneImm _ _ | .seReg _ _ | .sneReg _ _ | .ldI _ | .jpV0 _
  | .drw _ _ _ | .skp _ | .sknp _ | .ldDtVx _ | .ldStVx _ | .addI _ | .ldF _ | .ldB _ | .stRegs _ => []

/-- R25: where each instruction leaves pc, from the state before it. -/
def pcAfter (i : Instr) (s : State) : Word :=
  match i with
  | .jp nnn => nnn.setWidth 16
  | .jpV0 nnn => BitVec.ofNat 16 (nnn.toNat + (s.readV 0).toNat)
  | .call nnn => if s.sp.val = 16 then s.pc + 2 else nnn.setWidth 16
  | .ret => if s.sp.val = 0 then s.pc + 2 else s.stack.toList.getD (s.sp.val - 1) 0 + 2
  | .seImm x nn => if s.readV x = nn then s.pc + 4 else s.pc + 2
  | .sneImm x nn => if s.readV x = nn then s.pc + 2 else s.pc + 4
  | .seReg x y => if s.readV x = s.readV y then s.pc + 4 else s.pc + 2
  | .sneReg x y => if s.readV x = s.readV y then s.pc + 2 else s.pc + 4
  | .skp x => if s.keypad.toList.getD (s.readV x).toNat false = true then s.pc + 4 else s.pc + 2
  | .sknp x => if s.keypad.toList.getD (s.readV x).toNat false = true then s.pc + 2 else s.pc + 4
  | .ldVxK _ => if true ∈ s.keypad.toList then s.pc + 2 else s.pc
  | .cls | .ldImm _ _ | .addImm _ _ | .ldReg _ _ | .orReg _ _ | .andReg _ _ | .xorReg _ _ | .addReg _ _ | .sub _ _
  | .shr _ _ | .subn _ _ | .shl _ _ | .ldI _ | .rnd _ _ | .drw _ _ _ | .ldVxDt _ | .ldDtVx _ | .ldStVx _ | .addI _
  | .ldF _ | .ldB _ | .stRegs _ | .ldRegs _ => s.pc + 2

/-! ### What a program cannot observe (R30, R32, R160, R174) -/

/-- Two states that differ at most in what no instruction reads: ST, drawFlag, the outputs, and the host's
schedule and phase. -/
def SameToPrograms (s t : State) : Prop :=
  s.mem = t.mem ∧ s.v = t.v ∧ s.i = t.i ∧ s.pc = t.pc ∧ s.stack = t.stack ∧ s.sp = t.sp ∧ s.dt = t.dt ∧
    s.gfx = t.gfx ∧ s.keypad = t.keypad ∧ s.draws = t.draws

end Sys2Proof.Safety
end

