-- ==== Sys2Proof/Certificates/Slice0/Obligations.lean ====
section
/-! DEFINITION. The statements for the provers, from the numbered rules of spec/. -/

open Sys2Proof Sys2Proof.Machine Sys2Proof.Safety

/-- R72, R76, R84: for every instruction, with every field at every value, decoding its word gives it back; for both settings of the key-wait switch (D12, log 8). -/
def Obligations.DecodeEncodeAgree : Prop :=
  ∀ (keyWait : Bool) (i : Instr), i.wellFormedIn keyWait = true → decodeIn keyWait (encode i) = .ok i

/-- R75, R84: a word that decodes to `i` is exactly the word of `i`. -/
def Obligations.EncodeDecodeAgree : Prop :=
  ∀ (keyWait : Bool) (w : Word) (i : Instr), decodeIn keyWait w = .ok i → encode i = w ∧ i.wellFormedIn keyWait = true

/-- R75: match and mask decide; the order of testing does not matter; ten families need no sub-selector. -/
def Obligations.DecodeFollowsMatchAndMask : Prop :=
  (∀ r ∈ opcodeTable, ∀ w : Word, w &&& r.mask = r.pattern ↔ ∃ i, decode w = .ok i ∧ rowOf i = r) ∧
    (∀ r ∈ opcodeTable, ∀ r' ∈ opcodeTable, ∀ w : Word,
      w &&& r.mask = r.pattern → w &&& r'.mask = r'.pattern → r = r') ∧
    (∀ w : Word, (∀ r ∈ opcodeTable, w &&& r.mask ≠ r.pattern) ↔ ∃ e, decode w = .error e) ∧
    (∀ w : Word, fieldFamily w ∈ [0x1#4, 0x2#4, 0x3#4, 0x4#4, 0x6#4, 0x7#4, 0xA#4, 0xB#4, 0xC#4, 0xD#4] →
      ∃ i, decode w = .ok i)

/-- R77, without its counts: each row of its table, in terms of the fields of the word. -/
def Obligations.UnknownWordsByFamily : Prop :=
  ∀ w : Word,
    (decode w = .error .family0 ↔ fieldFamily w = 0x0 ∧ w ≠ 0x00E0 ∧ w ≠ 0x00EE) ∧
    (decode w = .error .family5 ↔ fieldFamily w = 0x5 ∧ fieldN w ≠ 0) ∧
    (decode w = .error .family8 ↔ fieldFamily w = 0x8 ∧ fieldN w ∈ [8, 9, 0xA, 0xB, 0xC, 0xD, 0xF]) ∧
    (decode w = .error .family9 ↔ fieldFamily w = 0x9 ∧ fieldN w ≠ 0) ∧
    (decode w = .error .familyE ↔ fieldFamily w = 0xE ∧ fieldNN w ∉ [0x9E, 0xA1]) ∧
    (decode w = .error .familyF ↔
      fieldFamily w = 0xF ∧ fieldNN w ∉ [0x07, 0x0A, 0x15, 0x18, 0x1E, 0x29, 0x33, 0x55, 0x65])

/-- R76, 95_test_vectors.md: one word a format. The opcode values are the ones the spec supplies from general knowledge (D1, log 6). -/
def Obligations.SampleWordsDecode : Prop :=
  decode 0x00EE = .ok .ret ∧ decode 0x2ABC = .ok (.call 0xABC) ∧ decode 0x6A12 = .ok (.ldImm 0xA 0x12) ∧
    decode 0x8AB4 = .ok (.addReg 0xA 0xB) ∧ decode 0xD012 = .ok (.drw 0 1 2) ∧ decode 0xF30A = .ok (.ldVxK 3) ∧
    decode 0x0000 = .error .family0 ∧ decode 0x8AB8 = .error .family8

/-- R81, with what the model adds around exec: the schedule loses its head (log 2), the phase becomes running (log 4), and the reports of the fetch come first (R166). -/
def Obligations.StepRunsDecodedInstruction : Prop :=
  ∀ (s : State) (i : Instr), StepsNext s → decode s.fetchedWord = .ok i →
    step s = exec i { s with
      schedule := s.schedule.tail
      phase := .running
      outputs := s.outputs ++ rangeReports s.pc [s.pc.toNat, s.pc.toNat + 1] }

/-- R71: big-endian, two byte reads at any pc, each masked and reported on its own. -/
def Obligations.FetchIsBigEndianAndMasked : Prop :=
  ∀ s : State,
    s.fetchedWord.toNat = 256 * (s.mem.get (s.pc.toNat % 4096)).toNat + (s.mem.get ((s.pc.toNat + 1) % 4096)).toNat ∧
    s.fetchReports = { s with outputs := s.outputs ++ rangeReports s.pc [s.pc.toNat, s.pc.toNat + 1] }

/-- R78; the fetch reports come first (R166), and the model advances its schedule and phase (logs 2, 4). -/
def Obligations.UnknownWordIsReportedAndSkipped : Prop :=
  ∀ (s : State) (e : DecodeReject), StepsNext s → decode s.fetchedWord = .error e →
    step s = .next { s with
      pc := s.pc + 2
      schedule := s.schedule.tail
      phase := .running
      outputs := s.outputs ++ rangeReports s.pc [s.pc.toNat, s.pc.toNat + 1] ++
        [.report ⟨.unknownOpcode, s.pc, s.fetchedWord.toNat⟩] }

/-- R161 ("every instruction word in every state has exactly one next state"), R196. The premise of the second clause is the launch contract, log 4: after a failed Load a Step is refused (StepAfterFailedLoadIsRefused). -/
def Obligations.StepEventsCompleteUnderTheLaunchContract : Prop :=
  (∀ (i : Instr) (s : State), ∃ t, exec i s = .next t) ∧ ∀ s : State, StepsNext s → ∃ t, step s = .next t

/-- R161 code 0 and R192 ("execution must not proceed"). The form of the stop, that the phase is kept, and that a Reset alone ends it are the model's choice, log 4. -/
def Obligations.StepAfterFailedLoadIsRefused : Prop :=
  ∀ s : State, s.phase = .loadFailed →
    ((s.schedule = [] ∨ s.schedule.head? = some .step) → step s = .refused .stepAfterLoadFailure) ∧
    (∀ t, s.schedule.head? ≠ some .reset → step s = .next t → t.phase = .loadFailed) ∧
    (s.schedule.head? = some .reset → ∃ t, step s = .next t ∧ t.phase = .fresh)

/-- R55, R71: the high byte at the lower address; R81. withFetchWord, and what it does to schedule and phase, is the model's (log 5). -/
def Obligations.PlacedInstructionRunsNext : Prop :=
  ∀ (s : State) (i : Instr), i.WellFormed →
    ∃ t, s.withFetchWord 16 (encode i).toNat = t ∧ t.fetchedWord = encode i ∧ decode t.fetchedWord = .ok i ∧
      StepsNext t ∧
      step t = exec i { t with
        phase := .running, outputs := s.outputs ++ rangeReports s.pc [s.pc.toNat, s.pc.toNat + 1] } ∧
      SameMemoryExcept [s.pc.toNat, s.pc.toNat + 1] s t ∧ t.schedule = [] ∧
      (s.phase ≠ .loadFailed → t.phase = s.phase) ∧ (s.phase = .loadFailed → t.phase = .fresh) ∧
      { t with mem := s.mem, schedule := s.schedule, phase := s.phase } = s

/-- R37, item by item. -/
def Obligations.ResetIsZeroExceptPc : Prop :=
  (∀ a, State.reset.peek a = 0) ∧ (∀ r, State.reset.readV r = 0) ∧ State.reset.i = 0 ∧ State.reset.pc = 0x200 ∧
    (∀ k : Fin 16, State.reset.stack[k.val] = 0) ∧ State.reset.sp = 0 ∧ State.reset.dt = 0 ∧ State.reset.st = 0 ∧
    State.reset.soundActive = false ∧ (∀ px py, State.reset.gfx.pixel px py = false) ∧
    State.reset.drawFlag = false ∧ (∀ k : Fin 16, State.reset.keypad[k.val] = false)

/-- R37, R38. The canonical form is the model's own (log 11). -/
def Obligations.ResetMeetsTheInvariant : Prop :=
  Inv State.reset

/-- R24, R38 ("I <= 0xFFF in every reachable state"), over all events: Step, Tick, KeyWrite, DrawAck, Snapshot, Load, Reset. -/
def Obligations.EveryStepKeepsTheInvariant : Prop :=
  ∀ s t : State, Inv s → step s = .next t → Inv t

/-- R39 (access table), R81 ("A Step never changes keypad, never decrements a timer and never clears drawFlag"), R28, R24. -/
def Obligations.StepEventWritesOnlyWhatItMay : Prop :=
  ∀ s t : State, StepsNext s → step s = .next t →
    t.keypad = s.keypad ∧ (s.drawFlag = true → t.drawFlag = true) ∧
    ((∀ x, decode s.fetchedWord ≠ .ok (.ldDtVx x)) → t.dt = s.dt) ∧
    ((∀ x, decode s.fetchedWord ≠ .ok (.ldStVx x)) → t.st = s.st) ∧
    (decode s.fetchedWord ≠ .ok .cls → (∀ x y n, decode s.fetchedWord ≠ .ok (.drw x y n)) → SameDisplay s t) ∧
    ((∀ nnn, decode s.fetchedWord ≠ .ok (.call nnn)) → t.stack = s.stack) ∧
    ((∀ nnn, decode s.fetchedWord ≠ .ok (.call nnn)) → decode s.fetchedWord ≠ .ok .ret → t.sp = s.sp) ∧
    ((∀ nnn, decode s.fetchedWord ≠ .ok (.ldI nnn)) → (∀ x, decode s.fetchedWord ≠ .ok (.addI x)) →
      (∀ x, decode s.fetchedWord ≠ .ok (.ldF x)) → t.i = s.i)

/-- R57: the write rows of its table. -/
def Obligations.OnlyTheTwoStoresWriteMemory : Prop :=
  ∀ (i : Instr) (s t : State), exec i s = .next t → SameMemoryExcept (storedAddrs i s) s t

/-- R25 (the table), R26 (wrap), R108, R124; law L2. -/
def Obligations.ProgramCounterAfterEachInstruction : Prop :=
  ∀ (i : Instr) (s t : State), exec i s = .next t → t.pc = pcAfter i s

/-- R22: the table and the sentences after it. -/
def Obligations.FlagRegisterAfterEachInstruction : Prop :=
  (∀ (i : Instr) (s t : State), exec i s = .next t →
    (∀ p, flagOf i s = some p → (p → t.readV vf = 1) ∧ (¬ p → t.readV vf = 0)) ∧
    (flagOf i s = none → vf ∉ destRegs i → t.readV vf = s.readV vf)) ∧
  State.reset.readV vf = 0

/-- R21, R22, R135: destinations are x, V0..Vx for the block load, and VF as a flag. -/
def Obligations.RegistersChangeOnlyAsNamed : Prop :=
  ∀ (i : Instr) (s t : State), exec i s = .next t →
    ∀ r, r ∉ destRegs i → (r = vf → flagOf i s = none) → t.readV r = s.readV r

/-- R160, R185 (a report is a mark no later step clears); the list is the model's (log 3). -/
def Obligations.OutputsOnlyGrow : Prop :=
  ∀ s t : State, step s = .next t → s.outputs <+: t.outputs

/-- R166 ("The most a step can output is 2 + 16 records"), R160 (the `at` field). -/
def Obligations.AtMostEighteenReportsAStep : Prop :=
  ∀ s t : State, StepsNext s → step s = .next t →
    ∃ rs : List Report, t.outputs = s.outputs ++ rs.map .report ∧ (∀ r ∈ rs, r.atPc = s.pc) ∧ rs.length ≤ 18 ∧
      (s.i.toNat ≤ 0xFFF → rs.length ≤ 17)

/-- R202: each breach is reported, and nothing else is; law L11. -/
def Obligations.ReportFreeExactlyWhenInBounds : Prop :=
  ∀ s t : State, StepsNext s → step s = .next t →
    (Quiet s t ↔ s.pc.toNat ≤ 0xFFE ∧ ∃ i, decode s.fetchedWord = .ok i ∧ OperandsInBounds i s)

/-- R30 (ST cannot be read by any instruction), R32 (no instruction reads drawFlag), R160 (a report has no effect on any later event), R174. -/
def Obligations.ProgramsCannotObserveSoundOrRedraw : Prop :=
  ∀ s t s' : State, SameToPrograms s t → StepsNext s → StepsNext t → step s = .next s' →
    ∃ t', step t = .next t' ∧ SameToPrograms s' t'

/-- R100. -/
def Obligations.RetReturnsOrReports : Prop :=
  Encoding 0x00EE 0xFFFF (fun _ => .ret) ∧
  ∀ s : State, ∃ t, exec .ret s = .next t ∧
    (s.sp.val = 0 → t.sp = s.sp ∧ t.pc = s.pc + 2 ∧
      t.outputs = s.outputs ++ [.report ⟨.stackUnderflow, s.pc, 0⟩]) ∧
    (∀ h : s.sp.val ≠ 0, t.sp.val = s.sp.val - 1 ∧ t.pc = s.stack[s.sp.val - 1]'(by omega) + 2 ∧ Quiet s t) ∧
    t.stack = s.stack ∧ SameRegsExcept [] s t ∧ t.i = s.i ∧ SameMemory s t ∧ SameTimers s t ∧ SameDisplay s t ∧
    SameHost s t ∧ t.draws = s.draws

/-- R101. -/
def Obligations.JpJumpsUnconditionally : Prop :=
  Encoding 0x1000 0xF000 (fun w => .jp (fieldNNN w)) ∧
  ∀ (nnn : BitVec 12) (s : State), ∃ t, exec (.jp nnn) s = .next t ∧ t.pc.toNat = nnn.toNat ∧ t.pc.toNat ≤ 0xFFF ∧
    SameButPc s t ∧ Quiet s t ∧ (s.pc.toNat = nnn.toNat → t = s)

/-- R102. -/
def Obligations.CallPushesItsOwnAddress : Prop :=
  Encoding 0x2000 0xF000 (fun w => .call (fieldNNN w)) ∧
  ∀ (nnn : BitVec 12) (s : State), ∃ t, exec (.call nnn) s = .next t ∧
    (s.sp.val = 16 → SameStack s t ∧ t.pc = s.pc + 2 ∧
      t.outputs = s.outputs ++ [.report ⟨.stackOverflow, s.pc, 0⟩]) ∧
    (∀ h : s.sp.val < 16, t.stack = s.stack.set s.sp.val s.pc h ∧ t.sp.val = s.sp.val + 1 ∧
      t.pc.toNat = nnn.toNat ∧ Quiet s t) ∧
    SameRegsExcept [] s t ∧ t.i = s.i ∧ SameMemory s t ∧ SameTimers s t ∧ SameDisplay s t ∧ SameHost s t ∧
    t.draws = s.draws

/-- R103, R104. -/
def Obligations.SkipsOnImmediate : Prop :=
  Encoding 0x3000 0xF000 (fun w => .seImm (fieldX w) (fieldNN w)) ∧
  Encoding 0x4000 0xF000 (fun w => .sneImm (fieldX w) (fieldNN w)) ∧
  ∀ (x : RegIdx) (nn : Byte) (s : State),
    Skips (.seImm x nn) ((s.readV x).toNat = nn.toNat) s ∧ Skips (.sneImm x nn) ((s.readV x).toNat ≠ nn.toNat) s

/-- R105, R106; a word 5xyN or 9xyN with N not 0 is unknown. -/
def Obligations.SkipsOnRegisters : Prop :=
  Encoding 0x5000 0xF00F (fun w => .seReg (fieldX w) (fieldY w)) ∧
  Encoding 0x9000 0xF00F (fun w => .sneReg (fieldX w) (fieldY w)) ∧
  (∀ w : Word, fieldFamily w = 0x5 ∨ fieldFamily w = 0x9 → fieldN w ≠ 0 → ∃ e, decode w = .error e) ∧
  ∀ (x y : RegIdx) (s : State),
    Skips (.seReg x y) ((s.readV x).toNat = (s.readV y).toNat) s ∧
    Skips (.sneReg x y) ((s.readV x).toNat ≠ (s.readV y).toNat) s

/-- R107. -/
def Obligations.JpV0AddsV0Unmasked : Prop :=
  Encoding 0xB000 0xF000 (fun w => .jpV0 (fieldNNN w)) ∧
  ∀ (nnn : BitVec 12) (s : State), ∃ t, exec (.jpV0 nnn) s = .next t ∧
    t.pc.toNat = nnn.toNat + (s.readV 0).toNat ∧ SameButPc s t ∧ Quiet s t

/-- R201 (call/return round trip, nested calls included), law L9. -/
def Obligations.CallThenRetResumesAfterTheCall : Prop :=
  ∀ (nnn : BitVec 12) (s t u : State), s.sp.val < 16 → exec (.call nnn) s = .next t →
    u.sp = t.sp → (∀ k : Fin 16, k.val < u.sp.val → u.stack[k.val] = t.stack[k.val]) →
    ∃ r, exec .ret u = .next r ∧ r.pc = s.pc + 2 ∧ r.sp = s.sp ∧
      (∀ k : Fin 16, k.val < r.sp.val → r.stack[k.val] = s.stack[k.val]) ∧ r.stack = u.stack ∧ Quiet u r

/-- R196, R101: the idiom for the end of a program. -/
def Obligations.SelfJumpIsAFixedPoint : Prop :=
  ∀ (s : State) (nnn : BitVec 12), s.schedule = [] → s.phase = .running → s.pc = nnn.setWidth 16 →
    nnn.toNat ≤ 0xFFE → s.fetchedWord = encode (.jp nnn) → step s = .next s

/-- R110, R111. -/
def Obligations.ImmediateLoadAndAdd : Prop :=
  Encoding 0x6000 0xF000 (fun w => .ldImm (fieldX w) (fieldNN w)) ∧
  Encoding 0x7000 0xF000 (fun w => .addImm (fieldX w) (fieldNN w)) ∧
  ∀ (x : RegIdx) (nn : Byte) (s : State),
    Puts (.ldImm x nn) x nn.toNat s ∧ Puts (.addImm x nn) x (((s.readV x).toNat + nn.toNat) % 256) s

/-- R112 to R115. -/
def Obligations.CopyAndLogic : Prop :=
  Encoding 0x8000 0xF00F (fun w => .ldReg (fieldX w) (fieldY w)) ∧
  Encoding 0x8001 0xF00F (fun w => .orReg (fieldX w) (fieldY w)) ∧
  Encoding 0x8002 0xF00F (fun w => .andReg (fieldX w) (fieldY w)) ∧
  Encoding 0x8003 0xF00F (fun w => .xorReg (fieldX w) (fieldY w)) ∧
  ∀ (x y : RegIdx) (s : State),
    Puts (.ldReg x y) x (s.readV y).toNat s ∧
    Puts (.orReg x y) x ((s.readV x).toNat ||| (s.readV y).toNat) s ∧
    Puts (.andReg x y) x ((s.readV x).toNat &&& (s.readV y).toNat) s ∧
    Puts (.xorReg x y) x ((s.readV x).toNat ^^^ (s.readV y).toNat) s

/-- R116. -/
def Obligations.AddWithCarry : Prop :=
  Encoding 0x8004 0xF00F (fun w => .addReg (fieldX w) (fieldY w)) ∧
  ∀ (x y : RegIdx) (s : State),
    PutsWithFlag (.addReg x y) x (((s.readV x).toNat + (s.readV y).toNat) % 256)
      ((s.readV x).toNat + (s.readV y).toNat > 255) s

/-- R117, R119. -/
def Obligations.SubtractBothWays : Prop :=
  Encoding 0x8005 0xF00F (fun w => .sub (fieldX w) (fieldY w)) ∧
  Encoding 0x8007 0xF00F (fun w => .subn (fieldX w) (fieldY w)) ∧
  ∀ (x y : RegIdx) (s : State),
    PutsWithFlag (.sub x y) x
      (if (s.readV x).toNat ≥ (s.readV y).toNat then (s.readV x).toNat - (s.readV y).toNat
       else (s.readV x).toNat + 256 - (s.readV y).toNat)
      ((s.readV x).toNat ≥ (s.readV y).toNat) s ∧
    PutsWithFlag (.subn x y) x
      (if (s.readV y).toNat ≥ (s.readV x).toNat then (s.readV y).toNat - (s.readV x).toNat
       else (s.readV y).toNat + 256 - (s.readV x).toNat)
      ((s.readV y).toNat ≥ (s.readV x).toNat) s

/-- R118, R120. -/
def Obligations.ShiftsMoveOneBitIntoVF : Prop :=
  Encoding 0x8006 0xF00F (fun w => .shr (fieldX w) (fieldY w)) ∧
  Encoding 0x800E 0xF00F (fun w => .shl (fieldX w) (fieldY w)) ∧
  ∀ (x y : RegIdx) (s : State),
    PutsWithFlag (.shr x y) x ((s.readV x).toNat / 2) ((s.readV x).toNat % 2 = 1) s ∧
    PutsWithFlag (.shl x y) x ((s.readV x).toNat * 2 % 256) ((s.readV x).toNat / 128 = 1) s

/-- R121, R175. The byte is the free value of log 1; nothing here rests on what it is. -/
def Obligations.RndMasksAFreeByte : Prop :=
  Encoding 0xC000 0xF000 (fun w => .rnd (fieldX w) (fieldNN w)) ∧
  ∀ (x : RegIdx) (nn : Byte) (s : State), ∃ t, exec (.rnd x nn) s = .next t ∧
    t.readV x = Config.randomByte s.draws &&& nn ∧ t.readV x &&& ~~~nn = 0 ∧ (nn = 0 → t.readV x = 0) ∧
    t.draws = s.draws + 1 ∧ t.pc = s.pc + 2 ∧ t.i = s.i ∧ SameRegsExcept [x] s t ∧ SameMemory s t ∧ SameStack s t ∧
    SameTimers s t ∧ SameDisplay s t ∧ SameHost s t ∧ Quiet s t

/-- R111 (wraparound law), law L5. -/
def Obligations.WraparoundLaw : Prop :=
  ∀ (x : RegIdx) (a b : Byte) (s : State),
    (∀ t u, exec (.ldImm x a) s = .next t → exec (.addImm x b) t = .next u →
      (u.readV x).toNat = (a.toNat + b.toNat) % 256) ∧
    (∀ t u w, exec (.addImm x a) s = .next t → exec (.addImm x b) t = .next u →
      exec (.addImm x (BitVec.ofNat 8 ((a.toNat + b.toNat) % 256))) s = .next w → ∀ r, u.readV r = w.readV r)

/-- R130, R132. -/
def Obligations.SetIndexAndFontAddress : Prop :=
  Encoding 0xA000 0xF000 (fun w => .ldI (fieldNNN w)) ∧ Encoding 0xF029 0xF0FF (fun w => .ldF (fieldX w)) ∧
  (∀ (nnn : BitVec 12) (s : State), ∃ t, exec (.ldI nnn) s = .next t ∧ t.i.toNat = nnn.toNat ∧
    t.pc = s.pc + 2 ∧ SameRegsExcept [] s t ∧ SameOutsideRegs s t ∧ Quiet s t) ∧
  ∀ (x : RegIdx) (s : State), ∃ t, exec (.ldF x) s = .next t ∧ t.i.toNat = (s.readV x).toNat * 5 ∧
    t.pc = s.pc + 2 ∧ SameRegsExcept [] s t ∧ SameOutsideRegs s t ∧ Quiet s t

/-- R131. -/
def Obligations.AddIndexFlagsPassingTheTop : Prop :=
  Encoding 0xF01E 0xF0FF (fun w => .addI (fieldX w)) ∧
  ∀ (x : RegIdx) (s : State), ∃ t, exec (.addI x) s = .next t ∧
    t.i.toNat = (s.i.toNat + (s.readV x).toNat) % 4096 ∧
    (s.i.toNat + (s.readV x).toNat > 0xFFF → (t.readV vf).toNat = 1) ∧
    (s.i.toNat + (s.readV x).toNat ≤ 0xFFF → (t.readV vf).toNat = 0) ∧
    t.pc = s.pc + 2 ∧ SameRegsExcept [vf] s t ∧ SameOutsideRegs s t ∧ Quiet s t

/-- R133. -/
def Obligations.BcdStoresThreeDigits : Prop :=
  Encoding 0xF033 0xF0FF (fun w => .ldB (fieldX w)) ∧
  ∀ (x : RegIdx) (s : State), ∃ t, exec (.ldB x) s = .next t ∧
    (t.peek s.i.toNat).toNat = (s.readV x).toNat / 100 ∧
    (t.peek (s.i.toNat + 1)).toNat = (s.readV x).toNat / 10 % 10 ∧
    (t.peek (s.i.toNat + 2)).toNat = (s.readV x).toNat % 10 ∧
    SameMemoryExcept (addrRun s.i.toNat 3) s t ∧
    t.outputs = s.outputs ++ rangeReports s.pc (addrRun s.i.toNat 3) ∧
    t.pc = s.pc + 2 ∧ t.i = s.i ∧ SameRegsExcept [] s t ∧ SameStack s t ∧ SameTimers s t ∧ SameDisplay s t ∧
    SameHost s t ∧ t.draws = s.draws

/-- R134. -/
def Obligations.RegisterDumpStoresV0ToVx : Prop :=
  Encoding 0xF055 0xF0FF (fun w => .stRegs (fieldX w)) ∧
  ∀ (x : RegIdx) (s : State), ∃ t, exec (.stRegs x) s = .next t ∧
    (∀ k : RegIdx, k ≤ x → t.peek (s.i.toNat + k.val) = s.readV k) ∧
    SameMemoryExcept (addrRun s.i.toNat (x.val + 1)) s t ∧
    t.outputs = s.outputs ++ rangeReports s.pc (addrRun s.i.toNat (x.val + 1)) ∧
    t.pc = s.pc + 2 ∧ t.i = s.i ∧ SameRegsExcept [] s t ∧ SameStack s t ∧ SameTimers s t ∧ SameDisplay s t ∧
    SameHost s t ∧ t.draws = s.draws

/-- R135. -/
def Obligations.RegisterLoadFillsV0ToVx : Prop :=
  Encoding 0xF065 0xF0FF (fun w => .ldRegs (fieldX w)) ∧
  ∀ (x : RegIdx) (s : State), ∃ t, exec (.ldRegs x) s = .next t ∧
    (∀ k : RegIdx, k ≤ x → t.readV k = s.peek (s.i.toNat + k.val)) ∧
    (∀ k : RegIdx, x < k → t.readV k = s.readV k) ∧
    t.outputs = s.outputs ++ rangeReports s.pc (addrRun s.i.toNat (x.val + 1)) ∧
    t.pc = s.pc + 2 ∧ t.i = s.i ∧ SameOutsideRegs s t

/-- R134 with R135 and R59 (a read returns the latest write). -/
def Obligations.DumpThenLoadRestoresRegisters : Prop :=
  ∀ (x : RegIdx) (s t u r : State), exec (.stRegs x) s = .next t → u.mem = t.mem → u.i = t.i →
    exec (.ldRegs x) u = .next r → ∀ k : RegIdx, k ≤ x → r.readV k = s.readV k

/-- R52, R53. -/
def Obligations.MemoryPrimitivesMaskAndReport : Prop :=
  ∀ (s : State) (a : Nat) (b : Byte),
    s.peek a = s.mem.get (a % 4096) ∧
    s.checkAddr a = { s with
      outputs := s.outputs ++ (if a > 0xFFF then [.report ⟨.addrOutOfRange, s.pc, a⟩] else []) } ∧
    (s.memWrite a b).peek a = b ∧ SameMemoryExcept [a] s (s.memWrite a b) ∧
    { s.memWrite a b with mem := s.mem } = s.checkAddr a

/-- R140. -/
def Obligations.ClsTurnsEveryPixelOff : Prop :=
  Encoding 0x00E0 0xFFFF (fun _ => .cls) ∧
  ∀ s : State, ∃ t, exec .cls s = .next t ∧ (∀ px py, t.gfx.pixel px py = false) ∧ t.drawFlag = true ∧
    t.pc = s.pc + 2 ∧ SameRegsExcept [] s t ∧ t.i = s.i ∧ SameMemory s t ∧ SameStack s t ∧ SameTimers s t ∧
    SameHost s t ∧ t.draws = s.draws ∧ Quiet s t

/-- R141, with the pixels as R142 to R144 place them. -/
def Obligations.DrwXorsTheSprite : Prop :=
  Encoding 0xD000 0xF000 (fun w => .drw (fieldX w) (fieldY w) (fieldN w)) ∧
  ∀ (x y : RegIdx) (n : Fin 16) (s : State), ∃ t, exec (.drw x y n) s = .next t ∧
    (∀ px py,
      (SpriteCovers (s.readV x).toNat (s.readV y).toNat ((addrRun s.i.toNat n.val).map s.peek) px py →
        t.gfx.pixel px py = !s.gfx.pixel px py) ∧
      (¬ SpriteCovers (s.readV x).toNat (s.readV y).toNat ((addrRun s.i.toNat n.val).map s.peek) px py →
        t.gfx.pixel px py = s.gfx.pixel px py)) ∧
    ((∃ px py, SpriteCovers (s.readV x).toNat (s.readV y).toNat ((addrRun s.i.toNat n.val).map s.peek) px py ∧
      s.gfx.pixel px py = true) → (t.readV vf).toNat = 1) ∧
    ((¬ ∃ px py, SpriteCovers (s.readV x).toNat (s.readV y).toNat ((addrRun s.i.toNat n.val).map s.peek) px py ∧
      s.gfx.pixel px py = true) → (t.readV vf).toNat = 0) ∧
    t.drawFlag = true ∧ t.outputs = s.outputs ++ rangeReports s.pc (addrRun s.i.toNat n.val) ∧
    t.pc = s.pc + 2 ∧ t.i = s.i ∧ SameRegsExcept [vf] s t ∧ SameMemory s t ∧ SameStack s t ∧ SameTimers s t ∧
    SameHost s t ∧ t.draws = s.draws

/-- R142 to R145: the loop against its pointwise meaning; which bit is which column is D10 (log 7). -/
def Obligations.BlitTogglesExactlyTheSprite : Prop :=
  ∀ (g : Gfx) (xo yo : Byte) (rows : List Byte), rows.length ≤ 15 →
    (∀ px py, (SpriteCovers xo.toNat yo.toNat rows px py → (g.blit xo yo rows).1.pixel px py = !g.pixel px py) ∧
      (¬ SpriteCovers xo.toNat yo.toNat rows px py → (g.blit xo yo rows).1.pixel px py = g.pixel px py)) ∧
    ((g.blit xo yo rows).2 = true ↔ ∃ px py, SpriteCovers xo.toNat yo.toNat rows px py ∧ g.pixel px py = true)

/-- R146 (double-XOR law). -/
def Obligations.DrawingTwiceRestoresTheDisplay : Prop :=
  ∀ (x y : RegIdx) (n : Fin 16) (s t u : State), x ≠ vf → y ≠ vf → exec (.drw x y n) s = .next t →
    exec (.drw x y n) t = .next u →
    u.gfx = s.gfx ∧
    ((u.readV vf).toNat = 1 ↔ ∃ px py, SpriteCovers (s.readV x).toNat (s.readV y).toNat
      ((addrRun s.i.toNat n.val).map s.peek) px py ∧ s.gfx.pixel px py = false)

/-- R147; the output list is the model's (log 3). -/
def Obligations.SnapshotIsRowMajor : Prop :=
  ∀ (s : State) (rest : List Event), s.schedule = .snapshot :: rest →
    ∃ flat, step s = .next { s with schedule := rest, outputs := s.outputs ++ [.pixels flat] } ∧
      flat.length = 2048 ∧ ∀ (px : Fin 64) (py : Fin 32), flat[py.val * 64 + px.val]? = some (s.gfx.pixel px py)

/-- R150, R151, R156. -/
def Obligations.KeySkipsCheckTheKeyNumber : Prop :=
  Encoding 0xE09E 0xF0FF (fun w => .skp (fieldX w)) ∧ Encoding 0xE0A1 0xF0FF (fun w => .sknp (fieldX w)) ∧
  ∀ (x : RegIdx) (s : State),
    (∃ t, exec (.skp x) s = .next t ∧ (KeyIsDown s (s.readV x).toNat → t.pc = s.pc + 4) ∧
      (¬ KeyIsDown s (s.readV x).toNat → t.pc = s.pc + 2) ∧ SameButPc s t ∧
      t.outputs = s.outputs ++ (if (s.readV x).toNat > 15 then
        [.report ⟨.keyIndexOutOfRange, s.pc, (s.readV x).toNat⟩] else [])) ∧
    (∃ t, exec (.sknp x) s = .next t ∧ (KeyIsDown s (s.readV x).toNat → t.pc = s.pc + 2) ∧
      (¬ KeyIsDown s (s.readV x).toNat → t.pc = s.pc + 4) ∧ SameButPc s t ∧
      t.outputs = s.outputs ++ (if (s.readV x).toNat > 15 then
        [.report ⟨.keyIndexOutOfRange, s.pc, (s.readV x).toNat⟩] else []))

/-- R152 (implemented by D12, log 8). -/
def Obligations.KeyWaitTakesTheLowestKey : Prop :=
  Encoding 0xF00A 0xF0FF (fun w => .ldVxK (fieldX w)) ∧
  ∀ (x : RegIdx) (s : State),
    ((∃ k : Fin 16, s.keypad[k.val] = true) →
      ∃ k : Fin 16, s.keypad[k.val] = true ∧ (∀ j : Fin 16, j < k → s.keypad[j.val] = false) ∧
        Puts (.ldVxK x) x k.val s) ∧
    ((∀ k : Fin 16, s.keypad[k.val] = false) → exec (.ldVxK x) s = .next s)

/-- R153, R154, R155. -/
def Obligations.TimerAccess : Prop :=
  Encoding 0xF007 0xF0FF (fun w => .ldVxDt (fieldX w)) ∧ Encoding 0xF015 0xF0FF (fun w => .ldDtVx (fieldX w)) ∧
  Encoding 0xF018 0xF0FF (fun w => .ldStVx (fieldX w)) ∧
  ∀ (x : RegIdx) (s : State),
    Puts (.ldVxDt x) x s.dt.toNat s ∧
    (∃ t, exec (.ldDtVx x) s = .next t ∧ t.dt = s.readV x ∧ t.st = s.st ∧ t.pc = s.pc + 2 ∧ t.i = s.i ∧
      SameRegsExcept [] s t ∧ SameMemory s t ∧ SameStack s t ∧ SameDisplay s t ∧ SameHost s t ∧
      t.draws = s.draws ∧ Quiet s t) ∧
    (∃ t, exec (.ldStVx x) s = .next t ∧ t.st = s.readV x ∧ (t.soundActive = true ↔ s.readV x ≠ 0) ∧ t.dt = s.dt ∧
      t.pc = s.pc + 2 ∧ t.i = s.i ∧ SameRegsExcept [] s t ∧ SameMemory s t ∧ SameStack s t ∧ SameDisplay s t ∧
      SameHost s t ∧ t.draws = s.draws ∧ Quiet s t)

/-- R172, R174. That the Tick is the head of a schedule that then moves on is the model's (log 2), and so is the list that keeps the sound_stop output (log 3). -/
def Obligations.TickCountsBothTimersDown : Prop :=
  ∀ (s : State) (rest : List Event), s.schedule = .tick :: rest →
    ∃ t, step s = .next t ∧ t.dt.toNat = s.dt.toNat - 1 ∧ t.st.toNat = s.st.toNat - 1 ∧
      t.outputs = s.outputs ++ (if s.st.toNat = 1 then [.soundStop] else []) ∧
      t = { s with schedule := rest, dt := t.dt, st := t.st, outputs := t.outputs }

/-- R173, R174; law L8. The schedule is how the model says which events come (log 2). -/
def Obligations.TicksCountDownToZero : Prop :=
  ∀ (k : Nat) (s : State) (rest : List Event), s.schedule = List.replicate k .tick ++ rest →
    ∃ t, Host.Core.run Sys2Proof.core k s = .next t ∧ t.schedule = rest ∧ t.dt.toNat = s.dt.toNat - k ∧
      t.st.toNat = s.st.toNat - k ∧
      t.outputs = s.outputs ++ (if 1 ≤ s.st.toNat ∧ s.st.toNat ≤ k then [.soundStop] else [])

/-- R176, R177; the schedule is the model's (log 2). -/
def Obligations.KeyWriteAndDrawAck : Prop :=
  ∀ (s : State) (rest : List Event),
    (∀ keys, s.schedule = .keyWrite keys :: rest → step s = .next { s with schedule := rest, keypad := keys }) ∧
    (s.schedule = .drawAck :: rest → step s = .next { s with schedule := rest, drawFlag := false })

/-- R192, R164, D22 for base 0x200; R193 for base 0x000. The test at any other base and what an unreadable image gives as its length are the model's (log 9), and so are the phase and the fault (log 4). -/
def Obligations.LoadCopiesTheImageOrFails : Prop :=
  (∀ (s : State) (rest : List Event) (image : Option (List Byte)) (base : Nat),
    s.schedule = .load image base :: rest →
    (s.phase = .running → step s = .fault .loadDuringRun) ∧
    (s.phase ≠ .running →
      (∀ bytes, image = some bytes → bytes.length ≤ 3584 ∧ base + bytes.length ≤ 0x1000 →
        ∃ t, step s = .next t ∧
          (∀ k < bytes.length, t.peek (base + k) = bytes.getD k 0) ∧
          SameMemoryExcept (addrRun base bytes.length) s t ∧
          { t with mem := s.mem } = { s with schedule := rest, outputs := s.outputs ++ [.loadSuccess] }) ∧
      (∀ bytes, image = some bytes → ¬ (bytes.length ≤ 3584 ∧ base + bytes.length ≤ 0x1000) →
        step s = .next { s with
          schedule := rest, phase := .loadFailed, outputs := s.outputs ++ [.loadFailed bytes.length] }) ∧
      (image = none → ∃ info, step s = .next { s with
        schedule := rest, phase := .loadFailed, outputs := s.outputs ++ [.loadFailed info] }))) ∧
    (∀ len, loadFits 0x200 len = true ↔ len ≤ 3584) ∧ (∀ len ≤ 512, loadFits 0x000 len = true)

/-- R190; what is kept is the model's (logs 1 to 4). -/
def Obligations.ResetEventRestoresTheResetState : Prop :=
  ∀ (s : State) (rest : List Event), s.schedule = .reset :: rest →
    step s = .next { State.reset with draws := s.draws, schedule := rest, outputs := s.outputs }
end

