-- ==== Sys2Proof/Laws/Encoding.lean ====
section
/-! SUPPORT. The fields of a word put together from fields, that every word is put together so (R72, R73), and what
a test with each of the three masks of R76 says about the fields. -/

namespace Sys2Proof

open BitVec

/-! ### Every word from its fields -/

theorem word_eq_NNN (w : Word) : wordNNN (fieldFamily w) (fieldNNN w) = w := by
  simp only [wordNNN, fieldFamily, fieldNNN]
  rw [extractLsb'_append_extractLsb'_eq_extractLsb' (by rfl)]
  exact extractLsb'_eq_self

theorem word_eq_XNN (w : Word) : wordXNN (fieldFamily w) (fieldX w) (fieldNN w) = w := by
  simp only [wordXNN, fieldFamily, fieldX, fieldNN, ofFin_toFin]
  rw [extractLsb'_append_extractLsb'_eq_extractLsb' (by rfl),
    extractLsb'_append_extractLsb'_eq_extractLsb' (by rfl)]
  exact extractLsb'_eq_self

theorem word_eq_XYN (w : Word) : wordXYN (fieldFamily w) (fieldX w) (fieldY w) (fieldN w) = w := by
  simp only [wordXYN, fieldFamily, fieldX, fieldY, fieldN, ofFin_toFin]
  rw [extractLsb'_append_extractLsb'_eq_extractLsb' (by rfl),
    extractLsb'_append_extractLsb'_eq_extractLsb' (by rfl),
    extractLsb'_append_extractLsb'_eq_extractLsb' (by rfl)]
  exact extractLsb'_eq_self

/-! ### Fields of a word put together -/

variable (f : BitVec 4) (x y n : Fin 16) (nn : Byte) (nnn : BitVec 12)

@[simp] theorem fieldFamily_wordNNN : fieldFamily (wordNNN f nnn) = f := by
  simp only [fieldFamily, wordNNN]; exact extractLsb'_append_eq_left

@[simp] theorem fieldNNN_wordNNN : fieldNNN (wordNNN f nnn) = nnn := by
  simp only [fieldNNN, wordNNN]; exact extractLsb'_append_eq_right

@[simp] theorem fieldFamily_wordXNN : fieldFamily (wordXNN f x nn) = f := by
  simp only [fieldFamily, wordXNN]; exact extractLsb'_append_eq_left

@[simp] theorem fieldX_wordXNN : fieldX (wordXNN f x nn) = x := by
  simp only [fieldX, wordXNN]
  rw [extractLsb'_append_eq_of_add_le (by decide), extractLsb'_append_eq_left]

@[simp] theorem fieldNN_wordXNN : fieldNN (wordXNN f x nn) = nn := by
  simp only [fieldNN, wordXNN]
  rw [extractLsb'_append_eq_of_add_le (by decide)]; exact extractLsb'_append_eq_right

@[simp] theorem fieldFamily_wordXYN : fieldFamily (wordXYN f x y n) = f := by
  simp only [fieldFamily, wordXYN]; exact extractLsb'_append_eq_left

@[simp] theorem fieldX_wordXYN : fieldX (wordXYN f x y n) = x := by
  simp only [fieldX, wordXYN]
  rw [extractLsb'_append_eq_of_add_le (by decide)]
  exact congrArg toFin extractLsb'_append_eq_left

@[simp] theorem fieldY_wordXYN : fieldY (wordXYN f x y n) = y := by
  simp only [fieldY, wordXYN]
  rw [extractLsb'_append_eq_of_add_le (by decide), extractLsb'_append_eq_of_add_le (by decide)]
  exact congrArg toFin extractLsb'_append_eq_left

@[simp] theorem fieldN_wordXYN : fieldN (wordXYN f x y n) = n := by
  simp only [fieldN, wordXYN]
  rw [extractLsb'_append_eq_of_add_le (by decide), extractLsb'_append_eq_of_add_le (by decide)]
  exact congrArg toFin extractLsb'_append_eq_right

/-! ### The three masks of R76 -/

theorem nibble_and_ones (b : BitVec 4) : b &&& 0xF#4 = b := by revert b; decide

theorem byte_and_ones (b : BitVec 8) : b &&& 0xFF#8 = b := by revert b; decide

theorem and_F000_eq_iff (w : Word) : w &&& 0xF000#16 = f ++ 0#12 ↔ fieldFamily w = f := by
  conv_lhs => rw [← word_eq_NNN w]
  rw [wordNNN, show (0xF000#16 : Word) = 0xF#4 ++ 0x000#12 from rfl, and_append]
  simp only [nibble_and_ones, BitVec.and_zero]
  exact append_left_inj (0#12)

theorem and_F00F_eq_iff (w : Word) :
    w &&& 0xF00F#16 = wordXYN f 0 0 n ↔ fieldFamily w = f ∧ fieldN w = n := by
  conv_lhs => rw [← word_eq_XYN w]
  have h : wordXYN (fieldFamily w) (fieldX w) (fieldY w) (fieldN w) &&& 0xF00F#16 =
      wordXYN (fieldFamily w) 0 0 (fieldN w) := by
    rw [wordXYN, show (0xF00F#16 : Word) = 0xF#4 ++ (0#4 ++ (0#4 ++ 0xF#4)) from rfl, and_append, and_append,
      and_append]
    simp [wordXYN, nibble_and_ones]
  rw [h]
  constructor
  · intro e
    exact ⟨by simpa using congrArg fieldFamily e, by simpa using congrArg fieldN e⟩
  · rintro ⟨rfl, rfl⟩; rfl

theorem and_F0FF_eq_iff (w : Word) :
    w &&& 0xF0FF#16 = wordXNN f 0 nn ↔ fieldFamily w = f ∧ fieldNN w = nn := by
  conv_lhs => rw [← word_eq_XNN w]
  have h : wordXNN (fieldFamily w) (fieldX w) (fieldNN w) &&& 0xF0FF#16 =
      wordXNN (fieldFamily w) 0 (fieldNN w) := by
    rw [wordXNN, show (0xF0FF#16 : Word) = 0xF#4 ++ (0#4 ++ 0xFF#8) from rfl, and_append, and_append]
    simp [wordXNN, nibble_and_ones, byte_and_ones]
  rw [h]
  constructor
  · intro e
    exact ⟨by simpa using congrArg fieldFamily e, by simpa using congrArg fieldNN e⟩
  · rintro ⟨rfl, rfl⟩; rfl

end Sys2Proof
end

