-- ==== Sys2Proof/Laws/State.lean ====
section
/-! SUPPORT. What each update does to each field of State: one lemma a field an update, so that no proof unfolds a
record update. The views `readV` and `peek` are given beside the fields they are made of. -/

namespace Sys2Proof.Machine

variable (s : State)


/-! ### emit -/

@[simp] theorem State.emit_mem (o : Output) : (s.emit o).mem = s.mem := rfl
@[simp] theorem State.emit_v (o : Output) : (s.emit o).v = s.v := rfl
@[simp] theorem State.emit_i (o : Output) : (s.emit o).i = s.i := rfl
@[simp] theorem State.emit_pc (o : Output) : (s.emit o).pc = s.pc := rfl
@[simp] theorem State.emit_stack (o : Output) : (s.emit o).stack = s.stack := rfl
@[simp] theorem State.emit_sp (o : Output) : (s.emit o).sp = s.sp := rfl
@[simp] theorem State.emit_dt (o : Output) : (s.emit o).dt = s.dt := rfl
@[simp] theorem State.emit_st (o : Output) : (s.emit o).st = s.st := rfl
@[simp] theorem State.emit_gfx (o : Output) : (s.emit o).gfx = s.gfx := rfl
@[simp] theorem State.emit_drawFlag (o : Output) : (s.emit o).drawFlag = s.drawFlag := rfl
@[simp] theorem State.emit_keypad (o : Output) : (s.emit o).keypad = s.keypad := rfl
@[simp] theorem State.emit_draws (o : Output) : (s.emit o).draws = s.draws := rfl
@[simp] theorem State.emit_schedule (o : Output) : (s.emit o).schedule = s.schedule := rfl
@[simp] theorem State.emit_outputs (o : Output) : (s.emit o).outputs = s.outputs ++ [o] := rfl
@[simp] theorem State.emit_phase (o : Output) : (s.emit o).phase = s.phase := rfl
@[simp] theorem State.emit_readV (o : Output) (r : RegIdx) : (s.emit o).readV r = s.readV r := by simp [State.readV]
@[simp] theorem State.emit_peek (o : Output) (c : Nat) : (s.emit o).peek c = s.peek c := by simp [State.peek]

/-! ### report -/

@[simp] theorem State.report_mem (k : ErrorKind) (n : Nat) : (s.report k n).mem = s.mem := rfl
@[simp] theorem State.report_v (k : ErrorKind) (n : Nat) : (s.report k n).v = s.v := rfl
@[simp] theorem State.report_i (k : ErrorKind) (n : Nat) : (s.report k n).i = s.i := rfl
@[simp] theorem State.report_pc (k : ErrorKind) (n : Nat) : (s.report k n).pc = s.pc := rfl
@[simp] theorem State.report_stack (k : ErrorKind) (n : Nat) : (s.report k n).stack = s.stack := rfl
@[simp] theorem State.report_sp (k : ErrorKind) (n : Nat) : (s.report k n).sp = s.sp := rfl
@[simp] theorem State.report_dt (k : ErrorKind) (n : Nat) : (s.report k n).dt = s.dt := rfl
@[simp] theorem State.report_st (k : ErrorKind) (n : Nat) : (s.report k n).st = s.st := rfl
@[simp] theorem State.report_gfx (k : ErrorKind) (n : Nat) : (s.report k n).gfx = s.gfx := rfl
@[simp] theorem State.report_drawFlag (k : ErrorKind) (n : Nat) : (s.report k n).drawFlag = s.drawFlag := rfl
@[simp] theorem State.report_keypad (k : ErrorKind) (n : Nat) : (s.report k n).keypad = s.keypad := rfl
@[simp] theorem State.report_draws (k : ErrorKind) (n : Nat) : (s.report k n).draws = s.draws := rfl
@[simp] theorem State.report_schedule (k : ErrorKind) (n : Nat) : (s.report k n).schedule = s.schedule := rfl
@[simp] theorem State.report_outputs (k : ErrorKind) (n : Nat) : (s.report k n).outputs = s.outputs ++ [.report ⟨k, s.pc, n⟩] := rfl
@[simp] theorem State.report_phase (k : ErrorKind) (n : Nat) : (s.report k n).phase = s.phase := rfl
@[simp] theorem State.report_readV (k : ErrorKind) (n : Nat) (r : RegIdx) : (s.report k n).readV r = s.readV r := by simp [State.readV]
@[simp] theorem State.report_peek (k : ErrorKind) (n : Nat) (c : Nat) : (s.report k n).peek c = s.peek c := by simp [State.peek]

/-! ### poke -/

@[simp] theorem State.poke_mem (a : Nat) (b : Byte) : (s.poke a b).mem = s.mem.set (a % Config.memSize) b := rfl
@[simp] theorem State.poke_v (a : Nat) (b : Byte) : (s.poke a b).v = s.v := rfl
@[simp] theorem State.poke_i (a : Nat) (b : Byte) : (s.poke a b).i = s.i := rfl
@[simp] theorem State.poke_pc (a : Nat) (b : Byte) : (s.poke a b).pc = s.pc := rfl
@[simp] theorem State.poke_stack (a : Nat) (b : Byte) : (s.poke a b).stack = s.stack := rfl
@[simp] theorem State.poke_sp (a : Nat) (b : Byte) : (s.poke a b).sp = s.sp := rfl
@[simp] theorem State.poke_dt (a : Nat) (b : Byte) : (s.poke a b).dt = s.dt := rfl
@[simp] theorem State.poke_st (a : Nat) (b : Byte) : (s.poke a b).st = s.st := rfl
@[simp] theorem State.poke_gfx (a : Nat) (b : Byte) : (s.poke a b).gfx = s.gfx := rfl
@[simp] theorem State.poke_drawFlag (a : Nat) (b : Byte) : (s.poke a b).drawFlag = s.drawFlag := rfl
@[simp] theorem State.poke_keypad (a : Nat) (b : Byte) : (s.poke a b).keypad = s.keypad := rfl
@[simp] theorem State.poke_draws (a : Nat) (b : Byte) : (s.poke a b).draws = s.draws := rfl
@[simp] theorem State.poke_schedule (a : Nat) (b : Byte) : (s.poke a b).schedule = s.schedule := rfl
@[simp] theorem State.poke_outputs (a : Nat) (b : Byte) : (s.poke a b).outputs = s.outputs := rfl
@[simp] theorem State.poke_phase (a : Nat) (b : Byte) : (s.poke a b).phase = s.phase := rfl
@[simp] theorem State.poke_readV (a : Nat) (b : Byte) (r : RegIdx) : (s.poke a b).readV r = s.readV r := by simp [State.readV]

/-! ### writeV -/

@[simp] theorem State.writeV_mem (x : RegIdx) (b : Byte) : (s.writeV x b).mem = s.mem := rfl
@[simp] theorem State.writeV_v (x : RegIdx) (b : Byte) : (s.writeV x b).v = s.v.set x.val b := rfl
@[simp] theorem State.writeV_i (x : RegIdx) (b : Byte) : (s.writeV x b).i = s.i := rfl
@[simp] theorem State.writeV_pc (x : RegIdx) (b : Byte) : (s.writeV x b).pc = s.pc := rfl
@[simp] theorem State.writeV_stack (x : RegIdx) (b : Byte) : (s.writeV x b).stack = s.stack := rfl
@[simp] theorem State.writeV_sp (x : RegIdx) (b : Byte) : (s.writeV x b).sp = s.sp := rfl
@[simp] theorem State.writeV_dt (x : RegIdx) (b : Byte) : (s.writeV x b).dt = s.dt := rfl
@[simp] theorem State.writeV_st (x : RegIdx) (b : Byte) : (s.writeV x b).st = s.st := rfl
@[simp] theorem State.writeV_gfx (x : RegIdx) (b : Byte) : (s.writeV x b).gfx = s.gfx := rfl
@[simp] theorem State.writeV_drawFlag (x : RegIdx) (b : Byte) : (s.writeV x b).drawFlag = s.drawFlag := rfl
@[simp] theorem State.writeV_keypad (x : RegIdx) (b : Byte) : (s.writeV x b).keypad = s.keypad := rfl
@[simp] theorem State.writeV_draws (x : RegIdx) (b : Byte) : (s.writeV x b).draws = s.draws := rfl
@[simp] theorem State.writeV_schedule (x : RegIdx) (b : Byte) : (s.writeV x b).schedule = s.schedule := rfl
@[simp] theorem State.writeV_outputs (x : RegIdx) (b : Byte) : (s.writeV x b).outputs = s.outputs := rfl
@[simp] theorem State.writeV_phase (x : RegIdx) (b : Byte) : (s.writeV x b).phase = s.phase := rfl
@[simp] theorem State.writeV_peek (x : RegIdx) (b : Byte) (c : Nat) : (s.writeV x b).peek c = s.peek c := by simp [State.peek]

/-! ### writeI -/

@[simp] theorem State.writeI_mem (a : Word) : (s.writeI a).mem = s.mem := rfl
@[simp] theorem State.writeI_v (a : Word) : (s.writeI a).v = s.v := rfl
@[simp] theorem State.writeI_i (a : Word) : (s.writeI a).i = a := rfl
@[simp] theorem State.writeI_pc (a : Word) : (s.writeI a).pc = s.pc := rfl
@[simp] theorem State.writeI_stack (a : Word) : (s.writeI a).stack = s.stack := rfl
@[simp] theorem State.writeI_sp (a : Word) : (s.writeI a).sp = s.sp := rfl
@[simp] theorem State.writeI_dt (a : Word) : (s.writeI a).dt = s.dt := rfl
@[simp] theorem State.writeI_st (a : Word) : (s.writeI a).st = s.st := rfl
@[simp] theorem State.writeI_gfx (a : Word) : (s.writeI a).gfx = s.gfx := rfl
@[simp] theorem State.writeI_drawFlag (a : Word) : (s.writeI a).drawFlag = s.drawFlag := rfl
@[simp] theorem State.writeI_keypad (a : Word) : (s.writeI a).keypad = s.keypad := rfl
@[simp] theorem State.writeI_draws (a : Word) : (s.writeI a).draws = s.draws := rfl
@[simp] theorem State.writeI_schedule (a : Word) : (s.writeI a).schedule = s.schedule := rfl
@[simp] theorem State.writeI_outputs (a : Word) : (s.writeI a).outputs = s.outputs := rfl
@[simp] theorem State.writeI_phase (a : Word) : (s.writeI a).phase = s.phase := rfl
@[simp] theorem State.writeI_readV (a : Word) (r : RegIdx) : (s.writeI a).readV r = s.readV r := by simp [State.readV]
@[simp] theorem State.writeI_peek (a : Word) (c : Nat) : (s.writeI a).peek c = s.peek c := by simp [State.peek]

/-! ### jumpTo -/

@[simp] theorem State.jumpTo_mem (t : Word) : (s.jumpTo t).mem = s.mem := rfl
@[simp] theorem State.jumpTo_v (t : Word) : (s.jumpTo t).v = s.v := rfl
@[simp] theorem State.jumpTo_i (t : Word) : (s.jumpTo t).i = s.i := rfl
@[simp] theorem State.jumpTo_pc (t : Word) : (s.jumpTo t).pc = t := rfl
@[simp] theorem State.jumpTo_stack (t : Word) : (s.jumpTo t).stack = s.stack := rfl
@[simp] theorem State.jumpTo_sp (t : Word) : (s.jumpTo t).sp = s.sp := rfl
@[simp] theorem State.jumpTo_dt (t : Word) : (s.jumpTo t).dt = s.dt := rfl
@[simp] theorem State.jumpTo_st (t : Word) : (s.jumpTo t).st = s.st := rfl
@[simp] theorem State.jumpTo_gfx (t : Word) : (s.jumpTo t).gfx = s.gfx := rfl
@[simp] theorem State.jumpTo_drawFlag (t : Word) : (s.jumpTo t).drawFlag = s.drawFlag := rfl
@[simp] theorem State.jumpTo_keypad (t : Word) : (s.jumpTo t).keypad = s.keypad := rfl
@[simp] theorem State.jumpTo_draws (t : Word) : (s.jumpTo t).draws = s.draws := rfl
@[simp] theorem State.jumpTo_schedule (t : Word) : (s.jumpTo t).schedule = s.schedule := rfl
@[simp] theorem State.jumpTo_outputs (t : Word) : (s.jumpTo t).outputs = s.outputs := rfl
@[simp] theorem State.jumpTo_phase (t : Word) : (s.jumpTo t).phase = s.phase := rfl
@[simp] theorem State.jumpTo_readV (t : Word) (r : RegIdx) : (s.jumpTo t).readV r = s.readV r := by simp [State.readV]
@[simp] theorem State.jumpTo_peek (t : Word) (c : Nat) : (s.jumpTo t).peek c = s.peek c := by simp [State.peek]

/-! ### advance -/

@[simp] theorem State.advance_mem : (s.advance).mem = s.mem := rfl
@[simp] theorem State.advance_v : (s.advance).v = s.v := rfl
@[simp] theorem State.advance_i : (s.advance).i = s.i := rfl
@[simp] theorem State.advance_pc : (s.advance).pc = s.pc + 2 := rfl
@[simp] theorem State.advance_stack : (s.advance).stack = s.stack := rfl
@[simp] theorem State.advance_sp : (s.advance).sp = s.sp := rfl
@[simp] theorem State.advance_dt : (s.advance).dt = s.dt := rfl
@[simp] theorem State.advance_st : (s.advance).st = s.st := rfl
@[simp] theorem State.advance_gfx : (s.advance).gfx = s.gfx := rfl
@[simp] theorem State.advance_drawFlag : (s.advance).drawFlag = s.drawFlag := rfl
@[simp] theorem State.advance_keypad : (s.advance).keypad = s.keypad := rfl
@[simp] theorem State.advance_draws : (s.advance).draws = s.draws := rfl
@[simp] theorem State.advance_schedule : (s.advance).schedule = s.schedule := rfl
@[simp] theorem State.advance_outputs : (s.advance).outputs = s.outputs := rfl
@[simp] theorem State.advance_phase : (s.advance).phase = s.phase := rfl
@[simp] theorem State.advance_readV (r : RegIdx) : (s.advance).readV r = s.readV r := by simp [State.readV]
@[simp] theorem State.advance_peek (c : Nat) : (s.advance).peek c = s.peek c := by simp [State.peek]

/-! ### skipIf -/

@[simp] theorem State.skipIf_mem (c : Bool) : (s.skipIf c).mem = s.mem := rfl
@[simp] theorem State.skipIf_v (c : Bool) : (s.skipIf c).v = s.v := rfl
@[simp] theorem State.skipIf_i (c : Bool) : (s.skipIf c).i = s.i := rfl
@[simp] theorem State.skipIf_pc (c : Bool) : (s.skipIf c).pc = if c then s.pc + 4 else s.pc + 2 := rfl
@[simp] theorem State.skipIf_stack (c : Bool) : (s.skipIf c).stack = s.stack := rfl
@[simp] theorem State.skipIf_sp (c : Bool) : (s.skipIf c).sp = s.sp := rfl
@[simp] theorem State.skipIf_dt (c : Bool) : (s.skipIf c).dt = s.dt := rfl
@[simp] theorem State.skipIf_st (c : Bool) : (s.skipIf c).st = s.st := rfl
@[simp] theorem State.skipIf_gfx (c : Bool) : (s.skipIf c).gfx = s.gfx := rfl
@[simp] theorem State.skipIf_drawFlag (c : Bool) : (s.skipIf c).drawFlag = s.drawFlag := rfl
@[simp] theorem State.skipIf_keypad (c : Bool) : (s.skipIf c).keypad = s.keypad := rfl
@[simp] theorem State.skipIf_draws (c : Bool) : (s.skipIf c).draws = s.draws := rfl
@[simp] theorem State.skipIf_schedule (c : Bool) : (s.skipIf c).schedule = s.schedule := rfl
@[simp] theorem State.skipIf_outputs (c : Bool) : (s.skipIf c).outputs = s.outputs := rfl
@[simp] theorem State.skipIf_phase (c : Bool) : (s.skipIf c).phase = s.phase := rfl
@[simp] theorem State.skipIf_readV (c : Bool) (r : RegIdx) : (s.skipIf c).readV r = s.readV r := by simp [State.readV]
@[simp] theorem State.skipIf_peek (d : Bool) (c : Nat) : (s.skipIf d).peek c = s.peek c := by simp [State.peek]

/-! ### push -/

@[simp] theorem State.push_mem (t : Word) (h : s.sp.val < 16) : (s.push t h).mem = s.mem := rfl
@[simp] theorem State.push_v (t : Word) (h : s.sp.val < 16) : (s.push t h).v = s.v := rfl
@[simp] theorem State.push_i (t : Word) (h : s.sp.val < 16) : (s.push t h).i = s.i := rfl
@[simp] theorem State.push_pc (t : Word) (h : s.sp.val < 16) : (s.push t h).pc = s.pc := rfl
@[simp] theorem State.push_stack (t : Word) (h : s.sp.val < 16) : (s.push t h).stack = s.stack.set s.sp.val t h := rfl
@[simp] theorem State.push_sp (t : Word) (h : s.sp.val < 16) : (s.push t h).sp = ⟨s.sp.val + 1, by omega⟩ := rfl
@[simp] theorem State.push_dt (t : Word) (h : s.sp.val < 16) : (s.push t h).dt = s.dt := rfl
@[simp] theorem State.push_st (t : Word) (h : s.sp.val < 16) : (s.push t h).st = s.st := rfl
@[simp] theorem State.push_gfx (t : Word) (h : s.sp.val < 16) : (s.push t h).gfx = s.gfx := rfl
@[simp] theorem State.push_drawFlag (t : Word) (h : s.sp.val < 16) : (s.push t h).drawFlag = s.drawFlag := rfl
@[simp] theorem State.push_keypad (t : Word) (h : s.sp.val < 16) : (s.push t h).keypad = s.keypad := rfl
@[simp] theorem State.push_draws (t : Word) (h : s.sp.val < 16) : (s.push t h).draws = s.draws := rfl
@[simp] theorem State.push_schedule (t : Word) (h : s.sp.val < 16) : (s.push t h).schedule = s.schedule := rfl
@[simp] theorem State.push_outputs (t : Word) (h : s.sp.val < 16) : (s.push t h).outputs = s.outputs := rfl
@[simp] theorem State.push_phase (t : Word) (h : s.sp.val < 16) : (s.push t h).phase = s.phase := rfl
@[simp] theorem State.push_readV (t : Word) (h : s.sp.val < 16) (r : RegIdx) : (s.push t h).readV r = s.readV r := by simp [State.readV]
@[simp] theorem State.push_peek (t : Word) (h : s.sp.val < 16) (c : Nat) : (s.push t h).peek c = s.peek c := by simp [State.peek]

/-! ### pop -/

@[simp] theorem State.pop_mem (h : s.sp.val ≠ 0) : (s.pop h).mem = s.mem := rfl
@[simp] theorem State.pop_v (h : s.sp.val ≠ 0) : (s.pop h).v = s.v := rfl
@[simp] theorem State.pop_i (h : s.sp.val ≠ 0) : (s.pop h).i = s.i := rfl
@[simp] theorem State.pop_pc (h : s.sp.val ≠ 0) : (s.pop h).pc = s.pc := rfl
@[simp] theorem State.pop_stack (h : s.sp.val ≠ 0) : (s.pop h).stack = s.stack := rfl
@[simp] theorem State.pop_sp (h : s.sp.val ≠ 0) : (s.pop h).sp = ⟨s.sp.val - 1, by omega⟩ := rfl
@[simp] theorem State.pop_dt (h : s.sp.val ≠ 0) : (s.pop h).dt = s.dt := rfl
@[simp] theorem State.pop_st (h : s.sp.val ≠ 0) : (s.pop h).st = s.st := rfl
@[simp] theorem State.pop_gfx (h : s.sp.val ≠ 0) : (s.pop h).gfx = s.gfx := rfl
@[simp] theorem State.pop_drawFlag (h : s.sp.val ≠ 0) : (s.pop h).drawFlag = s.drawFlag := rfl
@[simp] theorem State.pop_keypad (h : s.sp.val ≠ 0) : (s.pop h).keypad = s.keypad := rfl
@[simp] theorem State.pop_draws (h : s.sp.val ≠ 0) : (s.pop h).draws = s.draws := rfl
@[simp] theorem State.pop_schedule (h : s.sp.val ≠ 0) : (s.pop h).schedule = s.schedule := rfl
@[simp] theorem State.pop_outputs (h : s.sp.val ≠ 0) : (s.pop h).outputs = s.outputs := rfl
@[simp] theorem State.pop_phase (h : s.sp.val ≠ 0) : (s.pop h).phase = s.phase := rfl
@[simp] theorem State.pop_readV (h : s.sp.val ≠ 0) (r : RegIdx) : (s.pop h).readV r = s.readV r := by simp [State.readV]
@[simp] theorem State.pop_peek (h : s.sp.val ≠ 0) (c : Nat) : (s.pop h).peek c = s.peek c := by simp [State.peek]

/-! ### redraw -/

@[simp] theorem State.redraw_mem (g : Gfx) : (s.redraw g).mem = s.mem := rfl
@[simp] theorem State.redraw_v (g : Gfx) : (s.redraw g).v = s.v := rfl
@[simp] theorem State.redraw_i (g : Gfx) : (s.redraw g).i = s.i := rfl
@[simp] theorem State.redraw_pc (g : Gfx) : (s.redraw g).pc = s.pc := rfl
@[simp] theorem State.redraw_stack (g : Gfx) : (s.redraw g).stack = s.stack := rfl
@[simp] theorem State.redraw_sp (g : Gfx) : (s.redraw g).sp = s.sp := rfl
@[simp] theorem State.redraw_dt (g : Gfx) : (s.redraw g).dt = s.dt := rfl
@[simp] theorem State.redraw_st (g : Gfx) : (s.redraw g).st = s.st := rfl
@[simp] theorem State.redraw_gfx (g : Gfx) : (s.redraw g).gfx = g := rfl
@[simp] theorem State.redraw_drawFlag (g : Gfx) : (s.redraw g).drawFlag = true := rfl
@[simp] theorem State.redraw_keypad (g : Gfx) : (s.redraw g).keypad = s.keypad := rfl
@[simp] theorem State.redraw_draws (g : Gfx) : (s.redraw g).draws = s.draws := rfl
@[simp] theorem State.redraw_schedule (g : Gfx) : (s.redraw g).schedule = s.schedule := rfl
@[simp] theorem State.redraw_outputs (g : Gfx) : (s.redraw g).outputs = s.outputs := rfl
@[simp] theorem State.redraw_phase (g : Gfx) : (s.redraw g).phase = s.phase := rfl
@[simp] theorem State.redraw_readV (g : Gfx) (r : RegIdx) : (s.redraw g).readV r = s.readV r := by simp [State.readV]
@[simp] theorem State.redraw_peek (g : Gfx) (c : Nat) : (s.redraw g).peek c = s.peek c := by simp [State.peek]

/-! ### writeFlag -/

@[simp] theorem State.writeFlag_mem (b : Bool) : (s.writeFlag b).mem = s.mem := rfl
@[simp] theorem State.writeFlag_v (b : Bool) : (s.writeFlag b).v = s.v.set vf.val (flagByte b) := rfl
@[simp] theorem State.writeFlag_i (b : Bool) : (s.writeFlag b).i = s.i := rfl
@[simp] theorem State.writeFlag_pc (b : Bool) : (s.writeFlag b).pc = s.pc := rfl
@[simp] theorem State.writeFlag_stack (b : Bool) : (s.writeFlag b).stack = s.stack := rfl
@[simp] theorem State.writeFlag_sp (b : Bool) : (s.writeFlag b).sp = s.sp := rfl
@[simp] theorem State.writeFlag_dt (b : Bool) : (s.writeFlag b).dt = s.dt := rfl
@[simp] theorem State.writeFlag_st (b : Bool) : (s.writeFlag b).st = s.st := rfl
@[simp] theorem State.writeFlag_gfx (b : Bool) : (s.writeFlag b).gfx = s.gfx := rfl
@[simp] theorem State.writeFlag_drawFlag (b : Bool) : (s.writeFlag b).drawFlag = s.drawFlag := rfl
@[simp] theorem State.writeFlag_keypad (b : Bool) : (s.writeFlag b).keypad = s.keypad := rfl
@[simp] theorem State.writeFlag_draws (b : Bool) : (s.writeFlag b).draws = s.draws := rfl
@[simp] theorem State.writeFlag_schedule (b : Bool) : (s.writeFlag b).schedule = s.schedule := rfl
@[simp] theorem State.writeFlag_outputs (b : Bool) : (s.writeFlag b).outputs = s.outputs := rfl
@[simp] theorem State.writeFlag_phase (b : Bool) : (s.writeFlag b).phase = s.phase := rfl
@[simp] theorem State.writeFlag_peek (b : Bool) (c : Nat) : (s.writeFlag b).peek c = s.peek c := by simp [State.peek]

/-! ### writeResult -/

@[simp] theorem State.writeResult_mem (x : RegIdx) (r : Byte) (b : Bool) : (s.writeResult x r b).mem = s.mem := rfl
@[simp] theorem State.writeResult_i (x : RegIdx) (r : Byte) (b : Bool) : (s.writeResult x r b).i = s.i := rfl
@[simp] theorem State.writeResult_pc (x : RegIdx) (r : Byte) (b : Bool) : (s.writeResult x r b).pc = s.pc := rfl
@[simp] theorem State.writeResult_stack (x : RegIdx) (r : Byte) (b : Bool) : (s.writeResult x r b).stack = s.stack := rfl
@[simp] theorem State.writeResult_sp (x : RegIdx) (r : Byte) (b : Bool) : (s.writeResult x r b).sp = s.sp := rfl
@[simp] theorem State.writeResult_dt (x : RegIdx) (r : Byte) (b : Bool) : (s.writeResult x r b).dt = s.dt := rfl
@[simp] theorem State.writeResult_st (x : RegIdx) (r : Byte) (b : Bool) : (s.writeResult x r b).st = s.st := rfl
@[simp] theorem State.writeResult_gfx (x : RegIdx) (r : Byte) (b : Bool) : (s.writeResult x r b).gfx = s.gfx := rfl
@[simp] theorem State.writeResult_drawFlag (x : RegIdx) (r : Byte) (b : Bool) : (s.writeResult x r b).drawFlag = s.drawFlag := rfl
@[simp] theorem State.writeResult_keypad (x : RegIdx) (r : Byte) (b : Bool) : (s.writeResult x r b).keypad = s.keypad := rfl
@[simp] theorem State.writeResult_draws (x : RegIdx) (r : Byte) (b : Bool) : (s.writeResult x r b).draws = s.draws := rfl
@[simp] theorem State.writeResult_schedule (x : RegIdx) (r : Byte) (b : Bool) : (s.writeResult x r b).schedule = s.schedule := rfl
@[simp] theorem State.writeResult_outputs (x : RegIdx) (r : Byte) (b : Bool) : (s.writeResult x r b).outputs = s.outputs := rfl
@[simp] theorem State.writeResult_phase (x : RegIdx) (r : Byte) (b : Bool) : (s.writeResult x r b).phase = s.phase := rfl
@[simp] theorem State.writeResult_peek (x : RegIdx) (r : Byte) (b : Bool) (c : Nat) : (s.writeResult x r b).peek c = s.peek c := by simp [State.peek]

/-! ### advanceDraw -/

@[simp] theorem State.advanceDraw_mem : (s.advanceDraw).mem = s.mem := rfl
@[simp] theorem State.advanceDraw_v : (s.advanceDraw).v = s.v := rfl
@[simp] theorem State.advanceDraw_i : (s.advanceDraw).i = s.i := rfl
@[simp] theorem State.advanceDraw_pc : (s.advanceDraw).pc = s.pc := rfl
@[simp] theorem State.advanceDraw_stack : (s.advanceDraw).stack = s.stack := rfl
@[simp] theorem State.advanceDraw_sp : (s.advanceDraw).sp = s.sp := rfl
@[simp] theorem State.advanceDraw_dt : (s.advanceDraw).dt = s.dt := rfl
@[simp] theorem State.advanceDraw_st : (s.advanceDraw).st = s.st := rfl
@[simp] theorem State.advanceDraw_gfx : (s.advanceDraw).gfx = s.gfx := rfl
@[simp] theorem State.advanceDraw_drawFlag : (s.advanceDraw).drawFlag = s.drawFlag := rfl
@[simp] theorem State.advanceDraw_keypad : (s.advanceDraw).keypad = s.keypad := rfl
@[simp] theorem State.advanceDraw_draws : (s.advanceDraw).draws = s.draws + 1 := rfl
@[simp] theorem State.advanceDraw_schedule : (s.advanceDraw).schedule = s.schedule := rfl
@[simp] theorem State.advanceDraw_outputs : (s.advanceDraw).outputs = s.outputs := rfl
@[simp] theorem State.advanceDraw_phase : (s.advanceDraw).phase = s.phase := rfl
@[simp] theorem State.advanceDraw_readV (r : RegIdx) : (s.advanceDraw).readV r = s.readV r := by simp [State.readV]
@[simp] theorem State.advanceDraw_peek (c : Nat) : (s.advanceDraw).peek c = s.peek c := by simp [State.peek]

/-! ### checkAddr -/

@[simp] theorem State.checkAddr_mem (a : Nat) : (s.checkAddr a).mem = s.mem := by unfold State.checkAddr; split <;> rfl
@[simp] theorem State.checkAddr_v (a : Nat) : (s.checkAddr a).v = s.v := by unfold State.checkAddr; split <;> rfl
@[simp] theorem State.checkAddr_i (a : Nat) : (s.checkAddr a).i = s.i := by unfold State.checkAddr; split <;> rfl
@[simp] theorem State.checkAddr_pc (a : Nat) : (s.checkAddr a).pc = s.pc := by unfold State.checkAddr; split <;> rfl
@[simp] theorem State.checkAddr_stack (a : Nat) : (s.checkAddr a).stack = s.stack := by unfold State.checkAddr; split <;> rfl
@[simp] theorem State.checkAddr_sp (a : Nat) : (s.checkAddr a).sp = s.sp := by unfold State.checkAddr; split <;> rfl
@[simp] theorem State.checkAddr_dt (a : Nat) : (s.checkAddr a).dt = s.dt := by unfold State.checkAddr; split <;> rfl
@[simp] theorem State.checkAddr_st (a : Nat) : (s.checkAddr a).st = s.st := by unfold State.checkAddr; split <;> rfl
@[simp] theorem State.checkAddr_gfx (a : Nat) : (s.checkAddr a).gfx = s.gfx := by unfold State.checkAddr; split <;> rfl
@[simp] theorem State.checkAddr_drawFlag (a : Nat) : (s.checkAddr a).drawFlag = s.drawFlag := by unfold State.checkAddr; split <;> rfl
@[simp] theorem State.checkAddr_keypad (a : Nat) : (s.checkAddr a).keypad = s.keypad := by unfold State.checkAddr; split <;> rfl
@[simp] theorem State.checkAddr_draws (a : Nat) : (s.checkAddr a).draws = s.draws := by unfold State.checkAddr; split <;> rfl
@[simp] theorem State.checkAddr_schedule (a : Nat) : (s.checkAddr a).schedule = s.schedule := by unfold State.checkAddr; split <;> rfl
@[simp] theorem State.checkAddr_phase (a : Nat) : (s.checkAddr a).phase = s.phase := by unfold State.checkAddr; split <;> rfl
@[simp] theorem State.checkAddr_readV (a : Nat) (r : RegIdx) : (s.checkAddr a).readV r = s.readV r := by simp [State.readV]
@[simp] theorem State.checkAddr_peek (a : Nat) (c : Nat) : (s.checkAddr a).peek c = s.peek c := by simp [State.peek]

/-! ### checkKey -/

@[simp] theorem State.checkKey_mem (b : Byte) : (s.checkKey b).mem = s.mem := by unfold State.checkKey; split <;> rfl
@[simp] theorem State.checkKey_v (b : Byte) : (s.checkKey b).v = s.v := by unfold State.checkKey; split <;> rfl
@[simp] theorem State.checkKey_i (b : Byte) : (s.checkKey b).i = s.i := by unfold State.checkKey; split <;> rfl
@[simp] theorem State.checkKey_pc (b : Byte) : (s.checkKey b).pc = s.pc := by unfold State.checkKey; split <;> rfl
@[simp] theorem State.checkKey_stack (b : Byte) : (s.checkKey b).stack = s.stack := by unfold State.checkKey; split <;> rfl
@[simp] theorem State.checkKey_sp (b : Byte) : (s.checkKey b).sp = s.sp := by unfold State.checkKey; split <;> rfl
@[simp] theorem State.checkKey_dt (b : Byte) : (s.checkKey b).dt = s.dt := by unfold State.checkKey; split <;> rfl
@[simp] theorem State.checkKey_st (b : Byte) : (s.checkKey b).st = s.st := by unfold State.checkKey; split <;> rfl
@[simp] theorem State.checkKey_gfx (b : Byte) : (s.checkKey b).gfx = s.gfx := by unfold State.checkKey; split <;> rfl
@[simp] theorem State.checkKey_drawFlag (b : Byte) : (s.checkKey b).drawFlag = s.drawFlag := by unfold State.checkKey; split <;> rfl
@[simp] theorem State.checkKey_keypad (b : Byte) : (s.checkKey b).keypad = s.keypad := by unfold State.checkKey; split <;> rfl
@[simp] theorem State.checkKey_draws (b : Byte) : (s.checkKey b).draws = s.draws := by unfold State.checkKey; split <;> rfl
@[simp] theorem State.checkKey_schedule (b : Byte) : (s.checkKey b).schedule = s.schedule := by unfold State.checkKey; split <;> rfl
@[simp] theorem State.checkKey_phase (b : Byte) : (s.checkKey b).phase = s.phase := by unfold State.checkKey; split <;> rfl
@[simp] theorem State.checkKey_readV (b : Byte) (r : RegIdx) : (s.checkKey b).readV r = s.readV r := by simp [State.readV]
@[simp] theorem State.checkKey_peek (b : Byte) (c : Nat) : (s.checkKey b).peek c = s.peek c := by simp [State.peek]

/-! ### memWrite -/

@[simp] theorem State.memWrite_mem (a : Nat) (b : Byte) : (s.memWrite a b).mem = s.mem.set (a % Config.memSize) b := by simp [State.memWrite]
@[simp] theorem State.memWrite_v (a : Nat) (b : Byte) : (s.memWrite a b).v = s.v := by simp [State.memWrite]
@[simp] theorem State.memWrite_i (a : Nat) (b : Byte) : (s.memWrite a b).i = s.i := by simp [State.memWrite]
@[simp] theorem State.memWrite_pc (a : Nat) (b : Byte) : (s.memWrite a b).pc = s.pc := by simp [State.memWrite]
@[simp] theorem State.memWrite_stack (a : Nat) (b : Byte) : (s.memWrite a b).stack = s.stack := by simp [State.memWrite]
@[simp] theorem State.memWrite_sp (a : Nat) (b : Byte) : (s.memWrite a b).sp = s.sp := by simp [State.memWrite]
@[simp] theorem State.memWrite_dt (a : Nat) (b : Byte) : (s.memWrite a b).dt = s.dt := by simp [State.memWrite]
@[simp] theorem State.memWrite_st (a : Nat) (b : Byte) : (s.memWrite a b).st = s.st := by simp [State.memWrite]
@[simp] theorem State.memWrite_gfx (a : Nat) (b : Byte) : (s.memWrite a b).gfx = s.gfx := by simp [State.memWrite]
@[simp] theorem State.memWrite_drawFlag (a : Nat) (b : Byte) : (s.memWrite a b).drawFlag = s.drawFlag := by simp [State.memWrite]
@[simp] theorem State.memWrite_keypad (a : Nat) (b : Byte) : (s.memWrite a b).keypad = s.keypad := by simp [State.memWrite]
@[simp] theorem State.memWrite_draws (a : Nat) (b : Byte) : (s.memWrite a b).draws = s.draws := by simp [State.memWrite]
@[simp] theorem State.memWrite_schedule (a : Nat) (b : Byte) : (s.memWrite a b).schedule = s.schedule := by simp [State.memWrite]
@[simp] theorem State.memWrite_outputs (a : Nat) (b : Byte) : (s.memWrite a b).outputs = (s.checkAddr a).outputs := by simp [State.memWrite]
@[simp] theorem State.memWrite_phase (a : Nat) (b : Byte) : (s.memWrite a b).phase = s.phase := by simp [State.memWrite]
@[simp] theorem State.memWrite_readV (a : Nat) (b : Byte) (r : RegIdx) : (s.memWrite a b).readV r = s.readV r := by simp [State.readV]

/-! ### checkAddrs -/

@[simp] theorem State.checkAddrs_mem (as : List Nat) : (s.checkAddrs as).mem = s.mem := by
  induction as generalizing s with
  | nil => rfl
  | cons a as ih => simp [State.checkAddrs, ih]
@[simp] theorem State.checkAddrs_v (as : List Nat) : (s.checkAddrs as).v = s.v := by
  induction as generalizing s with
  | nil => rfl
  | cons a as ih => simp [State.checkAddrs, ih]
@[simp] theorem State.checkAddrs_i (as : List Nat) : (s.checkAddrs as).i = s.i := by
  induction as generalizing s with
  | nil => rfl
  | cons a as ih => simp [State.checkAddrs, ih]
@[simp] theorem State.checkAddrs_pc (as : List Nat) : (s.checkAddrs as).pc = s.pc := by
  induction as generalizing s with
  | nil => rfl
  | cons a as ih => simp [State.checkAddrs, ih]
@[simp] theorem State.checkAddrs_stack (as : List Nat) : (s.checkAddrs as).stack = s.stack := by
  induction as generalizing s with
  | nil => rfl
  | cons a as ih => simp [State.checkAddrs, ih]
@[simp] theorem State.checkAddrs_sp (as : List Nat) : (s.checkAddrs as).sp = s.sp := by
  induction as generalizing s with
  | nil => rfl
  | cons a as ih => simp [State.checkAddrs, ih]
@[simp] theorem State.checkAddrs_dt (as : List Nat) : (s.checkAddrs as).dt = s.dt := by
  induction as generalizing s with
  | nil => rfl
  | cons a as ih => simp [State.checkAddrs, ih]
@[simp] theorem State.checkAddrs_st (as : List Nat) : (s.checkAddrs as).st = s.st := by
  induction as generalizing s with
  | nil => rfl
  | cons a as ih => simp [State.checkAddrs, ih]
@[simp] theorem State.checkAddrs_gfx (as : List Nat) : (s.checkAddrs as).gfx = s.gfx := by
  induction as generalizing s with
  | nil => rfl
  | cons a as ih => simp [State.checkAddrs, ih]
@[simp] theorem State.checkAddrs_drawFlag (as : List Nat) : (s.checkAddrs as).drawFlag = s.drawFlag := by
  induction as generalizing s with
  | nil => rfl
  | cons a as ih => simp [State.checkAddrs, ih]
@[simp] theorem State.checkAddrs_keypad (as : List Nat) : (s.checkAddrs as).keypad = s.keypad := by
  induction as generalizing s with
  | nil => rfl
  | cons a as ih => simp [State.checkAddrs, ih]
@[simp] theorem State.checkAddrs_draws (as : List Nat) : (s.checkAddrs as).draws = s.draws := by
  induction as generalizing s with
  | nil => rfl
  | cons a as ih => simp [State.checkAddrs, ih]
@[simp] theorem State.checkAddrs_schedule (as : List Nat) : (s.checkAddrs as).schedule = s.schedule := by
  induction as generalizing s with
  | nil => rfl
  | cons a as ih => simp [State.checkAddrs, ih]
@[simp] theorem State.checkAddrs_phase (as : List Nat) : (s.checkAddrs as).phase = s.phase := by
  induction as generalizing s with
  | nil => rfl
  | cons a as ih => simp [State.checkAddrs, ih]
@[simp] theorem State.checkAddrs_readV (as : List Nat) (r : RegIdx) : (s.checkAddrs as).readV r = s.readV r := by simp [State.readV]
@[simp] theorem State.checkAddrs_peek (as : List Nat) (c : Nat) : (s.checkAddrs as).peek c = s.peek c := by simp [State.peek]

/-! ### memWriteList -/

@[simp] theorem State.memWriteList_v (a : Nat) (bs : List Byte) : (s.memWriteList a bs).v = s.v := by
  induction bs generalizing a s with
  | nil => rfl
  | cons b bs ih => simp [State.memWriteList, ih]
@[simp] theorem State.memWriteList_i (a : Nat) (bs : List Byte) : (s.memWriteList a bs).i = s.i := by
  induction bs generalizing a s with
  | nil => rfl
  | cons b bs ih => simp [State.memWriteList, ih]
@[simp] theorem State.memWriteList_pc (a : Nat) (bs : List Byte) : (s.memWriteList a bs).pc = s.pc := by
  induction bs generalizing a s with
  | nil => rfl
  | cons b bs ih => simp [State.memWriteList, ih]
@[simp] theorem State.memWriteList_stack (a : Nat) (bs : List Byte) : (s.memWriteList a bs).stack = s.stack := by
  induction bs generalizing a s with
  | nil => rfl
  | cons b bs ih => simp [State.memWriteList, ih]
@[simp] theorem State.memWriteList_sp (a : Nat) (bs : List Byte) : (s.memWriteList a bs).sp = s.sp := by
  induction bs generalizing a s with
  | nil => rfl
  | cons b bs ih => simp [State.memWriteList, ih]
@[simp] theorem State.memWriteList_dt (a : Nat) (bs : List Byte) : (s.memWriteList a bs).dt = s.dt := by
  induction bs generalizing a s with
  | nil => rfl
  | cons b bs ih => simp [State.memWriteList, ih]
@[simp] theorem State.memWriteList_st (a : Nat) (bs : List Byte) : (s.memWriteList a bs).st = s.st := by
  induction bs generalizing a s with
  | nil => rfl
  | cons b bs ih => simp [State.memWriteList, ih]
@[simp] theorem State.memWriteList_gfx (a : Nat) (bs : List Byte) : (s.memWriteList a bs).gfx = s.gfx := by
  induction bs generalizing a s with
  | nil => rfl
  | cons b bs ih => simp [State.memWriteList, ih]
@[simp] theorem State.memWriteList_drawFlag (a : Nat) (bs : List Byte) : (s.memWriteList a bs).drawFlag = s.drawFlag := by
  induction bs generalizing a s with
  | nil => rfl
  | cons b bs ih => simp [State.memWriteList, ih]
@[simp] theorem State.memWriteList_keypad (a : Nat) (bs : List Byte) : (s.memWriteList a bs).keypad = s.keypad := by
  induction bs generalizing a s with
  | nil => rfl
  | cons b bs ih => simp [State.memWriteList, ih]
@[simp] theorem State.memWriteList_draws (a : Nat) (bs : List Byte) : (s.memWriteList a bs).draws = s.draws := by
  induction bs generalizing a s with
  | nil => rfl
  | cons b bs ih => simp [State.memWriteList, ih]
@[simp] theorem State.memWriteList_schedule (a : Nat) (bs : List Byte) : (s.memWriteList a bs).schedule = s.schedule := by
  induction bs generalizing a s with
  | nil => rfl
  | cons b bs ih => simp [State.memWriteList, ih]
@[simp] theorem State.memWriteList_phase (a : Nat) (bs : List Byte) : (s.memWriteList a bs).phase = s.phase := by
  induction bs generalizing a s with
  | nil => rfl
  | cons b bs ih => simp [State.memWriteList, ih]
@[simp] theorem State.memWriteList_readV (a : Nat) (bs : List Byte) (r : RegIdx) : (s.memWriteList a bs).readV r = s.readV r := by simp [State.readV]

/-! ### pokeList -/

@[simp] theorem State.pokeList_v (a : Nat) (bs : List Byte) : (s.pokeList a bs).v = s.v := by
  induction bs generalizing a s with
  | nil => rfl
  | cons b bs ih => simp [State.pokeList, ih]
@[simp] theorem State.pokeList_i (a : Nat) (bs : List Byte) : (s.pokeList a bs).i = s.i := by
  induction bs generalizing a s with
  | nil => rfl
  | cons b bs ih => simp [State.pokeList, ih]
@[simp] theorem State.pokeList_pc (a : Nat) (bs : List Byte) : (s.pokeList a bs).pc = s.pc := by
  induction bs generalizing a s with
  | nil => rfl
  | cons b bs ih => simp [State.pokeList, ih]
@[simp] theorem State.pokeList_stack (a : Nat) (bs : List Byte) : (s.pokeList a bs).stack = s.stack := by
  induction bs generalizing a s with
  | nil => rfl
  | cons b bs ih => simp [State.pokeList, ih]
@[simp] theorem State.pokeList_sp (a : Nat) (bs : List Byte) : (s.pokeList a bs).sp = s.sp := by
  induction bs generalizing a s with
  | nil => rfl
  | cons b bs ih => simp [State.pokeList, ih]
@[simp] theorem State.pokeList_dt (a : Nat) (bs : List Byte) : (s.pokeList a bs).dt = s.dt := by
  induction bs generalizing a s with
  | nil => rfl
  | cons b bs ih => simp [State.pokeList, ih]
@[simp] theorem State.pokeList_st (a : Nat) (bs : List Byte) : (s.pokeList a bs).st = s.st := by
  induction bs generalizing a s with
  | nil => rfl
  | cons b bs ih => simp [State.pokeList, ih]
@[simp] theorem State.pokeList_gfx (a : Nat) (bs : List Byte) : (s.pokeList a bs).gfx = s.gfx := by
  induction bs generalizing a s with
  | nil => rfl
  | cons b bs ih => simp [State.pokeList, ih]
@[simp] theorem State.pokeList_drawFlag (a : Nat) (bs : List Byte) : (s.pokeList a bs).drawFlag = s.drawFlag := by
  induction bs generalizing a s with
  | nil => rfl
  | cons b bs ih => simp [State.pokeList, ih]
@[simp] theorem State.pokeList_keypad (a : Nat) (bs : List Byte) : (s.pokeList a bs).keypad = s.keypad := by
  induction bs generalizing a s with
  | nil => rfl
  | cons b bs ih => simp [State.pokeList, ih]
@[simp] theorem State.pokeList_draws (a : Nat) (bs : List Byte) : (s.pokeList a bs).draws = s.draws := by
  induction bs generalizing a s with
  | nil => rfl
  | cons b bs ih => simp [State.pokeList, ih]
@[simp] theorem State.pokeList_schedule (a : Nat) (bs : List Byte) : (s.pokeList a bs).schedule = s.schedule := by
  induction bs generalizing a s with
  | nil => rfl
  | cons b bs ih => simp [State.pokeList, ih]
@[simp] theorem State.pokeList_outputs (a : Nat) (bs : List Byte) : (s.pokeList a bs).outputs = s.outputs := by
  induction bs generalizing a s with
  | nil => rfl
  | cons b bs ih => simp [State.pokeList, ih]
@[simp] theorem State.pokeList_phase (a : Nat) (bs : List Byte) : (s.pokeList a bs).phase = s.phase := by
  induction bs generalizing a s with
  | nil => rfl
  | cons b bs ih => simp [State.pokeList, ih]
@[simp] theorem State.pokeList_readV (a : Nat) (bs : List Byte) (r : RegIdx) : (s.pokeList a bs).readV r = s.readV r := by simp [State.readV]

/-! ### loadRegs -/

@[simp] theorem State.loadRegs_mem (ks : List RegIdx) : (s.loadRegs ks).mem = s.mem := by
  induction ks generalizing s with
  | nil => rfl
  | cons k ks ih => simp [State.loadRegs, ih]
@[simp] theorem State.loadRegs_i (ks : List RegIdx) : (s.loadRegs ks).i = s.i := by
  induction ks generalizing s with
  | nil => rfl
  | cons k ks ih => simp [State.loadRegs, ih]
@[simp] theorem State.loadRegs_pc (ks : List RegIdx) : (s.loadRegs ks).pc = s.pc := by
  induction ks generalizing s with
  | nil => rfl
  | cons k ks ih => simp [State.loadRegs, ih]
@[simp] theorem State.loadRegs_stack (ks : List RegIdx) : (s.loadRegs ks).stack = s.stack := by
  induction ks generalizing s with
  | nil => rfl
  | cons k ks ih => simp [State.loadRegs, ih]
@[simp] theorem State.loadRegs_sp (ks : List RegIdx) : (s.loadRegs ks).sp = s.sp := by
  induction ks generalizing s with
  | nil => rfl
  | cons k ks ih => simp [State.loadRegs, ih]
@[simp] theorem State.loadRegs_dt (ks : List RegIdx) : (s.loadRegs ks).dt = s.dt := by
  induction ks generalizing s with
  | nil => rfl
  | cons k ks ih => simp [State.loadRegs, ih]
@[simp] theorem State.loadRegs_st (ks : List RegIdx) : (s.loadRegs ks).st = s.st := by
  induction ks generalizing s with
  | nil => rfl
  | cons k ks ih => simp [State.loadRegs, ih]
@[simp] theorem State.loadRegs_gfx (ks : List RegIdx) : (s.loadRegs ks).gfx = s.gfx := by
  induction ks generalizing s with
  | nil => rfl
  | cons k ks ih => simp [State.loadRegs, ih]
@[simp] theorem State.loadRegs_drawFlag (ks : List RegIdx) : (s.loadRegs ks).drawFlag = s.drawFlag := by
  induction ks generalizing s with
  | nil => rfl
  | cons k ks ih => simp [State.loadRegs, ih]
@[simp] theorem State.loadRegs_keypad (ks : List RegIdx) : (s.loadRegs ks).keypad = s.keypad := by
  induction ks generalizing s with
  | nil => rfl
  | cons k ks ih => simp [State.loadRegs, ih]
@[simp] theorem State.loadRegs_draws (ks : List RegIdx) : (s.loadRegs ks).draws = s.draws := by
  induction ks generalizing s with
  | nil => rfl
  | cons k ks ih => simp [State.loadRegs, ih]
@[simp] theorem State.loadRegs_schedule (ks : List RegIdx) : (s.loadRegs ks).schedule = s.schedule := by
  induction ks generalizing s with
  | nil => rfl
  | cons k ks ih => simp [State.loadRegs, ih]
@[simp] theorem State.loadRegs_phase (ks : List RegIdx) : (s.loadRegs ks).phase = s.phase := by
  induction ks generalizing s with
  | nil => rfl
  | cons k ks ih => simp [State.loadRegs, ih]
@[simp] theorem State.loadRegs_peek (ks : List RegIdx) (c : Nat) : (s.loadRegs ks).peek c = s.peek c := by simp [State.peek]

end Sys2Proof.Machine
end

