-- ==== Sys2Proof/Laws/Memory.lean ====
section
/-! SUPPORT. The laws of memory: a read after a write (R53, R59), and that every write keeps the canonical form.
The read laws hold for every list, canonical or not. -/

namespace Sys2Proof.Machine

theorem Memory.get_erase (m : Memory) (a c : Nat) :
    (m.erase a).get c = if c = a then Config.unlistedByte else m.get c := by
  induction m with
  | nil => simp [Memory.erase, Memory.get]
  | cons d m ih =>
    by_cases hc : c = a
    · subst hc
      by_cases hd : d.1 = c <;> simp_all [Memory.erase, Memory.get]
    · by_cases hd : d.1 = a
      · simp [Memory.erase, Memory.get, hd, ih, hc, Ne.symm hc]
      · by_cases hdc : d.1 = c <;> simp_all [Memory.erase, Memory.get]

theorem Memory.get_insert (m : Memory) (a : Nat) (b : Byte) (c : Nat) (h : ∀ d ∈ m, d.1 ≠ a) :
    (m.insert a b).get c = if c = a then b else m.get c := by
  induction m with
  | nil => simp [Memory.insert, Memory.get, eq_comm]
  | cons d m ih =>
    have hd : d.1 ≠ a := h d (by simp)
    have ih := ih (fun e he => h e (by simp [he]))
    by_cases hlt : a < d.1
    · by_cases hc : c = a
      · simp [Memory.insert, Memory.get, hlt, hc]
      · simp [Memory.insert, Memory.get, hlt, hc, Ne.symm hc]
    · by_cases hc : c = a
      · subst hc; simp [Memory.insert, Memory.get, hlt, hd, ih]
      · by_cases hdc : d.1 = c
        · subst hdc; simp [Memory.insert, Memory.get, hlt, hc]
        · simp [Memory.insert, Memory.get, hlt, hdc, ih, hc]

theorem Memory.mem_erase {m : Memory} {a : Nat} {d : Host.Cell} (h : d ∈ m.erase a) : d ∈ m ∧ d.1 ≠ a := by
  induction m with
  | nil => simp [Memory.erase] at h
  | cons e m ih =>
    by_cases he : e.1 = a
    · have := ih (by simpa [Memory.erase, he] using h)
      simp [this]
    · simp only [Memory.erase, he, if_false, List.mem_cons] at h
      rcases h with rfl | h
      · simp [he]
      · simp [ih h]

theorem Memory.mem_insert {m : Memory} {a : Nat} {b : Byte} {d : Host.Cell} (h : d ∈ m.insert a b) :
    d = (a, b) ∨ d ∈ m := by
  induction m with
  | nil => simpa [Memory.insert] using h
  | cons e m ih =>
    by_cases hlt : a < e.1
    · simpa [Memory.insert, hlt] using h
    · simp only [Memory.insert, hlt, if_false, List.mem_cons] at h
      rcases h with rfl | h
      · simp
      · rcases ih h with rfl | h <;> simp [*]

/-- A read after a write: the written address gives the byte written, every other address what it gave. -/
theorem Memory.get_set (m : Memory) (a : Nat) (b : Byte) (c : Nat) :
    (m.set a b).get c = if c = a then b else m.get c := by
  unfold Memory.set
  split
  · next hb => rw [Memory.get_erase, hb]
  · rw [Memory.get_insert _ _ _ _ (fun d hd => (Memory.mem_erase hd).2), Memory.get_erase]
    by_cases hc : c = a <;> simp [hc]

theorem Memory.erase_pairwise {m : Memory} (a : Nat) (h : List.Pairwise (fun c d : Host.Cell => c.1 < d.1) m) :
    List.Pairwise (fun c d : Host.Cell => c.1 < d.1) (m.erase a) := by
  induction m with
  | nil => simp [Memory.erase]
  | cons e m ih =>
    rw [List.pairwise_cons] at h
    by_cases he : e.1 = a
    · simpa [Memory.erase, he] using ih h.2
    · simp only [Memory.erase, he, if_false, List.pairwise_cons]
      exact ⟨fun d hd => h.1 d (Memory.mem_erase hd).1, ih h.2⟩

theorem Memory.insert_pairwise {m : Memory} (a : Nat) (b : Byte) (hne : ∀ d ∈ m, d.1 ≠ a)
    (h : List.Pairwise (fun c d : Host.Cell => c.1 < d.1) m) :
    List.Pairwise (fun c d : Host.Cell => c.1 < d.1) (m.insert a b) := by
  induction m with
  | nil => simp [Memory.insert]
  | cons e m ih =>
    have he : e.1 ≠ a := hne e (by simp)
    have h' := List.pairwise_cons.1 h
    by_cases hlt : a < e.1
    · simp only [Memory.insert, hlt, if_true, List.pairwise_cons]
      refine ⟨fun d hd => ?_, h'⟩
      rcases List.mem_cons.1 hd with rfl | hd
      · exact hlt
      · exact lt_trans hlt (h'.1 d hd)
    · simp only [Memory.insert, hlt, if_false, List.pairwise_cons]
      refine ⟨fun d hd => ?_, ih (fun d hd => hne d (by simp [hd])) h'.2⟩
      rcases Memory.mem_insert hd with rfl | hd
      · simp only; omega
      · exact h'.1 d hd

/-- Every write inside the address space keeps the canonical form. -/
theorem Memory.set_wf {m : Memory} (h : m.wf) {a : Nat} (ha : a < Config.memSize) (b : Byte) : (m.set a b).wf := by
  unfold Memory.set
  split
  · exact ⟨Memory.erase_pairwise a h.1, fun c hc => h.2 c (Memory.mem_erase hc).1⟩
  · next hb =>
    refine ⟨Memory.insert_pairwise a b (fun d hd => (Memory.mem_erase hd).2) (Memory.erase_pairwise a h.1), ?_⟩
    intro c hc
    rcases Memory.mem_insert hc with rfl | hc
    · exact ⟨ha, hb⟩
    · exact h.2 c (Memory.mem_erase hc).1

theorem Memory.nil_wf : Memory.wf [] := by simp [Memory.wf]

/-! ### The same laws on the state -/

variable (s : State)

theorem State.peek_poke (a c : Nat) (b : Byte) :
    (s.poke a b).peek c = if c % Config.memSize = a % Config.memSize then b else s.peek c := by
  simp only [State.peek, State.poke, Memory.get_set]

theorem State.peek_memWrite (a c : Nat) (b : Byte) :
    (s.memWrite a b).peek c = if c % Config.memSize = a % Config.memSize then b else s.peek c := by
  simp only [State.memWrite, State.peek_poke, State.checkAddr_peek]

/-- What a run of byte writes does to each byte: the last write to its address, if any, or nothing. Written for at
most 4096 bytes, where no two writes meet. -/
theorem State.peek_memWriteList (a : Nat) (bs : List Byte) (hlen : bs.length ≤ Config.memSize) (c : Nat) :
    (s.memWriteList a bs).peek c =
      (bs[(c + 4095 * a) % Config.memSize]?).getD (s.peek c) := by
  induction bs generalizing a s with
  | nil => simp [State.memWriteList]
  | cons b bs ih =>
    simp only [List.length_cons] at hlen
    rw [State.memWriteList, ih _ _ (by omega), State.peek_memWrite]
    simp only [Config.memSize] at *
    by_cases hc : c % 4096 = a % 4096
    · have h0 : (c + 4095 * a) % 4096 = 0 := by omega
      have h1 : (c + 4095 * (a + 1)) % 4096 = 4095 := by omega
      rw [h0, h1, List.getElem?_eq_none (by omega)]
      simp [hc]
    · have h1 : (c + 4095 * a) % 4096 = (c + 4095 * (a + 1)) % 4096 + 1 := by omega
      rw [h1]
      simp [hc]

theorem State.memWriteList_mem_wf (h : s.mem.wf) (a : Nat) (bs : List Byte) : (s.memWriteList a bs).mem.wf := by
  induction bs generalizing a s with
  | nil => exact h
  | cons b bs ih =>
    refine ih _ ?_ _
    rw [State.memWrite_mem]
    exact Memory.set_wf h (Nat.mod_lt _ (by decide)) b

theorem State.pokeList_mem_wf (h : s.mem.wf) (a : Nat) (bs : List Byte) : (s.pokeList a bs).mem.wf := by
  induction bs generalizing a s with
  | nil => exact h
  | cons b bs ih =>
    refine ih _ ?_ _
    rw [State.poke_mem]
    exact Memory.set_wf h (Nat.mod_lt _ (by decide)) b

theorem State.pokeList_peek (a : Nat) (bs : List Byte) (hfit : a + bs.length ≤ Config.memSize) (c : Nat) :
    (s.pokeList a bs).peek c =
      if a ≤ c % Config.memSize then (bs[c % Config.memSize - a]?).getD (s.peek c) else s.peek c := by
  induction bs generalizing a s with
  | nil => simp [State.pokeList]
  | cons b bs ih =>
    simp only [List.length_cons] at hfit
    rw [State.pokeList, ih _ _ (by omega), State.peek_poke]
    simp only [Config.memSize] at *
    have ha : a % 4096 = a := Nat.mod_eq_of_lt (by omega)
    rw [ha]
    by_cases hc : c % 4096 = a
    · simp [hc]
    · by_cases hle : a + 1 ≤ c % 4096
      · have h1 : c % 4096 - a = c % 4096 - (a + 1) + 1 := by omega
        have h2 : a ≤ c % 4096 := by omega
        simp [hle, h2, h1, hc]
      · have h2 : ¬ a ≤ c % 4096 := by omega
        simp [hle, h2, hc]

end Sys2Proof.Machine
end

