-- ==== Sys2Proof/Laws/Ops.lean ====
section
/-! SUPPORT. What each shared operation does, once: registers and flags, reports, register blocks, keys, pixels. The
provers cite these instead of unfolding the operations. -/

namespace Sys2Proof.Machine

open Sys2Proof.Safety

variable (s : State)

/-! ### Registers and the flag (R21, R23) -/

theorem State.readV_writeV (x : RegIdx) (b : Byte) (r : RegIdx) :
    (s.writeV x b).readV r = if r = x then b else s.readV r := by
  simp only [State.readV, State.writeV, Vector.getElem_set, Fin.ext_iff, eq_comm]

theorem State.readV_writeFlag (f : Bool) (r : RegIdx) :
    (s.writeFlag f).readV r = if r = vf then flagByte f else s.readV r := by
  simp only [State.writeFlag, State.readV_writeV]

/-- The flag is written last: with x = 0xF it is what VF holds. -/
theorem State.readV_writeResult (x : RegIdx) (b : Byte) (f : Bool) (r : RegIdx) :
    (s.writeResult x b f).readV r = if r = vf then flagByte f else if r = x then b else s.readV r := by
  simp only [State.writeResult, State.readV_writeFlag, State.readV_writeV]

/-- Two states with the same registers read alike. -/
theorem State.readV_ext {s t : State} (h : ∀ r, s.readV r = t.readV r) : s.v = t.v := by
  apply Vector.ext
  intro k hk
  exact h ⟨k, hk⟩

@[simp] theorem flagByte_toNat (f : Bool) : (flagByte f).toNat = if f then 1 else 0 := by cases f <;> rfl

/-! ### Reports (R52, R53, R156, R160) -/

theorem State.checkAddr_outputs (a : Nat) : (s.checkAddr a).outputs = s.outputs ++ rangeReports s.pc [a] := by
  unfold State.checkAddr rangeReports
  by_cases h : a > Config.addrMask
  · rw [if_pos h, List.filter_cons_of_pos (by simpa using h)]; rfl
  · rw [if_neg h, List.filter_cons_of_neg (by simpa using h)]; simp

theorem rangeReports_cons (p : Word) (a : Nat) (as : List Nat) :
    rangeReports p (a :: as) = rangeReports p [a] ++ rangeReports p as := by
  by_cases h : a > Config.addrMask <;> simp [rangeReports, h]

theorem rangeReports_length_le (p : Word) (as : List Nat) : (rangeReports p as).length ≤ as.length := by
  simpa [rangeReports] using List.length_filter_le _ as

theorem rangeReports_eq_nil_iff (p : Word) (as : List Nat) :
    rangeReports p as = [] ↔ ∀ a ∈ as, a ≤ Config.addrMask := by
  simp [rangeReports]

theorem State.checkAddrs_outputs (as : List Nat) :
    (s.checkAddrs as).outputs = s.outputs ++ rangeReports s.pc as := by
  induction as generalizing s with
  | nil => simp [State.checkAddrs, rangeReports]
  | cons a as ih =>
    rw [State.checkAddrs, ih, State.checkAddr_outputs, State.checkAddr_pc, rangeReports_cons _ a as, List.append_assoc]

/-- A report changes the outputs and nothing else. -/
theorem State.checkAddr_eq (a : Nat) :
    s.checkAddr a = { s with outputs := s.outputs ++ rangeReports s.pc [a] } := by
  rw [← State.checkAddr_outputs]
  unfold State.checkAddr
  split <;> rfl

theorem State.checkAddrs_eq (as : List Nat) :
    s.checkAddrs as = { s with outputs := s.outputs ++ rangeReports s.pc as } := by
  induction as generalizing s with
  | nil => simp [State.checkAddrs, rangeReports]
  | cons a as ih =>
    rw [State.checkAddrs, ih, State.checkAddr_eq, rangeReports_cons _ a as, ← List.append_assoc]

theorem addrRun_succ (a n : Nat) : addrRun a (n + 1) = a :: addrRun (a + 1) n := by
  simp only [addrRun, List.range_succ_eq_map, List.map_cons, List.map_map, Nat.add_zero]
  congr 1
  apply List.map_congr_left
  intro k _
  simp only [Function.comp_apply]; omega

theorem State.addrs_eq_addrRun (n : Nat) : s.addrs n = addrRun s.i.toNat n := rfl

theorem State.memWriteList_outputs (a : Nat) (bs : List Byte) :
    (s.memWriteList a bs).outputs = s.outputs ++ rangeReports s.pc (addrRun a bs.length) := by
  induction bs generalizing a s with
  | nil => simp [State.memWriteList, rangeReports, addrRun]
  | cons b bs ih =>
    rw [State.memWriteList, ih, State.memWrite_outputs, State.checkAddr_outputs, State.memWrite_pc,
      List.length_cons, addrRun_succ, rangeReports_cons _ a (addrRun _ _), List.append_assoc]

theorem State.checkKey_eq (b : Byte) :
    s.checkKey b = if b.toNat > 15 then s.report .keyIndexOutOfRange b.toNat else s := rfl

theorem State.checkKey_outputs (b : Byte) :
    (s.checkKey b).outputs =
      s.outputs ++ (if b.toNat > 15 then [.report ⟨.keyIndexOutOfRange, s.pc, b.toNat⟩] else []) := by
  rw [State.checkKey_eq]
  split
  · rfl
  · simp

/-! ### Register blocks (R134, R135) -/

theorem mem_regsUpTo (x k : RegIdx) : k ∈ regsUpTo x ↔ k ≤ x := by simp [regsUpTo]

theorem regsUpTo_val (x : RegIdx) : (regsUpTo x).map (fun k => k.val) = List.range (x.val + 1) := by
  revert x; decide

theorem regsUpTo_length (x : RegIdx) : (regsUpTo x).length = x.val + 1 := by
  simpa using congrArg List.length (regsUpTo_val x)

theorem regsUpTo_getElem? (x : RegIdx) (k : Nat) :
    (regsUpTo x)[k]? = if h : k ≤ x.val then some ⟨k, by omega⟩ else none := by
  have hval : ((regsUpTo x)[k]?).map (fun r => r.val) = (List.range (x.val + 1))[k]? := by
    rw [← regsUpTo_val x, List.getElem?_map]
  split
  · next h =>
    rw [List.getElem?_range (by omega)] at hval
    cases hr : (regsUpTo x)[k]? with
    | none => simp [hr] at hval
    | some r =>
      simp only [hr, Option.map_some, Option.some.injEq] at hval
      simp [Fin.ext_iff, hval]
  · next h =>
    rw [List.getElem?_eq_none]
    rw [regsUpTo_length]; omega

theorem State.loadRegs_outputs (ks : List RegIdx) :
    (s.loadRegs ks).outputs = s.outputs ++ rangeReports s.pc (ks.map (fun k => s.i.toNat + k.val)) := by
  induction ks generalizing s with
  | nil => simp [State.loadRegs, rangeReports]
  | cons k ks ih =>
    rw [State.loadRegs, ih]
    simp only [State.writeV_outputs, State.checkAddr_outputs, State.writeV_pc, State.checkAddr_pc, State.writeV_i,
      State.checkAddr_i, List.map_cons]
    rw [rangeReports_cons _ _ (List.map _ ks), List.append_assoc]
    rfl

theorem State.loadRegs_readV (ks : List RegIdx) (r : RegIdx) :
    (s.loadRegs ks).readV r = if r ∈ ks then s.peek (s.i.toNat + r.val) else s.readV r := by
  induction ks generalizing s with
  | nil => simp [State.loadRegs]
  | cons k ks ih =>
    rw [State.loadRegs, ih, State.readV_writeV]
    simp only [State.writeV_peek, State.checkAddr_peek, State.writeV_i, State.checkAddr_i, State.checkAddr_readV,
      List.mem_cons]
    by_cases hr : r ∈ ks
    · simp [hr]
    · by_cases hk : r = k
      · simp [hk, State.addr]
      · simp [hr, hk]

/-! ### Keys (R152, R156) -/

theorem State.keyDown_eq (b : Byte) : s.keyDown b = s.keypad.toList.getD b.toNat false := by
  unfold State.keyDown
  split
  · next h => simp [List.getD_eq_getElem?_getD, h]
  · next h =>
    rw [List.getD_eq_getElem?_getD, List.getElem?_eq_none (by simpa using h)]; rfl

/-- What `lowestKey` answers: a key that is down, with every smaller one up; or nothing, when all are up. -/
theorem State.lowestKey_cases :
    (∃ k : Fin 16, s.lowestKey = some k ∧ s.keypad[k.val] = true ∧ ∀ j : Fin 16, j < k → s.keypad[j.val] = false) ∨
      (s.lowestKey = none ∧ ∀ j : Fin 16, s.keypad[j.val] = false) := by
  unfold State.lowestKey
  cases h : (List.finRange 16).find? (fun k => s.keypad[k.val]) with
  | none =>
    right
    refine ⟨rfl, fun j => ?_⟩
    have := List.find?_eq_none.1 h j (List.mem_finRange j)
    simpa using this
  | some k =>
    left
    refine ⟨k, rfl, by simpa using List.find?_some h, fun j hj => ?_⟩
    rw [List.find?_eq_some_iff_getElem] at h
    obtain ⟨_, n, hn, hk, hlt⟩ := h
    have hkn : k.val = n := by rw [← hk]; simp
    have := hlt j.val (by omega)
    simpa using this

/-! ### Pixels (R142) -/

theorem Gfx.pixel_flip (g : Gfx) (px qx : Fin 64) (py qy : Fin 32) :
    (g.flip px py).pixel qx qy = if qx = px ∧ qy = py then !g.pixel qx qy else g.pixel qx qy := by
  unfold Gfx.flip Gfx.pixel
  by_cases hy : qy = py
  · subst hy
    by_cases hx : qx = px
    · subst hx; simp
    · have : px.val ≠ qx.val := fun h => hx (Fin.ext h.symm)
      simp [hx, this]
  · have : py.val ≠ qy.val := fun h => hy (Fin.ext h.symm)
    simp [hy, this]

theorem Gfx.ext_pixel {g h : Gfx} (e : ∀ px py, g.pixel px py = h.pixel px py) : g = h := by
  apply Vector.ext
  intro y hy
  apply Vector.ext
  intro x hx
  exact e ⟨x, hx⟩ ⟨y, hy⟩

theorem Gfx.pixel_blank (px : Fin 64) (py : Fin 32) : Gfx.blank.pixel px py = false := by
  simp [Gfx.blank, Gfx.pixel]

/-! ### Events and the Step event -/

/-- One decrement opportunity, on numbers: 0 stays 0 (R172). -/
theorem tickDown_toNat (c : Byte) : (tickDown c).toNat = c.toNat - 1 := by revert c; decide

/-- Everything a `Tick` does (R172, R174). -/
theorem State.tickEvent_eq :
    s.tickEvent = { s with
      dt := tickDown s.dt
      st := tickDown s.st
      outputs := s.outputs ++ (if s.st = 1 then [.soundStop] else []) } := by
  by_cases h : s.st = 1
  · exact (if_pos h).trans (by rw [if_pos h]; rfl)
  · exact (if_neg h).trans (by rw [if_neg h, List.append_nil])

/-- Everything the fetch does to the state (R71, R166). -/
theorem State.afterFetch_eq :
    s.afterFetch = { s with
      phase := .running
      outputs := s.outputs ++ rangeReports s.pc [s.pc.toNat, s.pc.toNat + 1] } := by
  unfold State.afterFetch State.fetchReports
  rw [State.checkAddrs_eq]

/-- When the next event is a `Step`, step is that event on the rest of the schedule. -/
theorem step_eq_coreStep (h : StepsNext s) : step s = ({ s with schedule := s.schedule.tail } : State).coreStep := by
  obtain ⟨hs, -⟩ := h
  unfold step
  cases hsch : s.schedule with
  | nil =>
    obtain ⟨⟩ := s
    subst hsch
    rfl
  | cons e rest =>
    obtain rfl : e = .step := by simpa [hsch] using hs
    rfl

end Sys2Proof.Machine
end

