-- ==== Sys2Proof/Laws/PerInstr.lean ====
section
/-! SUPPORT. One lemma an instruction: its encoding meets its own row of the opcode table (R75, R76). -/

namespace Sys2Proof.Laws.EncodesToRow

/-- The word of `i` matches the mask and pattern of the row of R76 that `i` belongs to, and that row is in the
table. -/
def Statement (i : Instr) : Prop := (rowOf i).hits (encode i) = true ∧ rowOf i ∈ opcodeTable

theorem rowOf_mem (i : Instr) : rowOf i ∈ opcodeTable := by
  cases i <;> simp [rowOf, opcodeTable]

variable (x y n : Fin 16) (nn : Byte) (nnn : BitVec 12)

theorem hits_NNN (f : BitVec 4) (p : Word) (hp : p = f ++ 0#12) (s : String) :
    OpcodeRow.hits ⟨s, p, 0xF000⟩ (wordNNN f nnn) = true := by
  simp only [OpcodeRow.hits, beq_iff_eq, hp]
  exact (and_F000_eq_iff f _).2 (by simp)

theorem hits_XNN (f : BitVec 4) (p : Word) (hp : p = f ++ 0#12) (s : String) :
    OpcodeRow.hits ⟨s, p, 0xF000⟩ (wordXNN f x nn) = true := by
  simp only [OpcodeRow.hits, beq_iff_eq, hp]
  exact (and_F000_eq_iff f _).2 (by simp)

theorem hits_XYN (f : BitVec 4) (p : Word) (hp : p = f ++ 0#12) (s : String) :
    OpcodeRow.hits ⟨s, p, 0xF000⟩ (wordXYN f x y n) = true := by
  simp only [OpcodeRow.hits, beq_iff_eq, hp]
  exact (and_F000_eq_iff f _).2 (by simp)

theorem hits_XYF (f : BitVec 4) (p : Word) (hp : p = wordXYN f 0 0 n) (s : String) :
    OpcodeRow.hits ⟨s, p, 0xF00F⟩ (wordXYN f x y n) = true := by
  simp only [OpcodeRow.hits, beq_iff_eq, hp]
  exact (and_F00F_eq_iff f n _).2 (by simp)

theorem hits_XFF (f : BitVec 4) (p : Word) (hp : p = wordXNN f 0 nn) (s : String) :
    OpcodeRow.hits ⟨s, p, 0xF0FF⟩ (wordXNN f x nn) = true := by
  simp only [OpcodeRow.hits, beq_iff_eq, hp]
  exact (and_F0FF_eq_iff f nn _).2 (by simp)

theorem cls : Statement .cls := ⟨by decide, rowOf_mem _⟩

theorem ret : Statement .ret := ⟨by decide, rowOf_mem _⟩

theorem jp : Statement (.jp nnn) := ⟨hits_NNN nnn _ _ rfl _, rowOf_mem _⟩

theorem call : Statement (.call nnn) := ⟨hits_NNN nnn _ _ rfl _, rowOf_mem _⟩

theorem seImm : Statement (.seImm x nn) := ⟨hits_XNN x nn _ _ rfl _, rowOf_mem _⟩

theorem sneImm : Statement (.sneImm x nn) := ⟨hits_XNN x nn _ _ rfl _, rowOf_mem _⟩

theorem seReg : Statement (.seReg x y) := ⟨hits_XYF x y _ _ _ rfl _, rowOf_mem _⟩

theorem ldImm : Statement (.ldImm x nn) := ⟨hits_XNN x nn _ _ rfl _, rowOf_mem _⟩

theorem addImm : Statement (.addImm x nn) := ⟨hits_XNN x nn _ _ rfl _, rowOf_mem _⟩

theorem ldReg : Statement (.ldReg x y) := ⟨hits_XYF x y _ _ _ rfl _, rowOf_mem _⟩

theorem orReg : Statement (.orReg x y) := ⟨hits_XYF x y _ _ _ rfl _, rowOf_mem _⟩

theorem andReg : Statement (.andReg x y) := ⟨hits_XYF x y _ _ _ rfl _, rowOf_mem _⟩

theorem xorReg : Statement (.xorReg x y) := ⟨hits_XYF x y _ _ _ rfl _, rowOf_mem _⟩

theorem addReg : Statement (.addReg x y) := ⟨hits_XYF x y _ _ _ rfl _, rowOf_mem _⟩

theorem sub : Statement (.sub x y) := ⟨hits_XYF x y _ _ _ rfl _, rowOf_mem _⟩

theorem shr : Statement (.shr x y) := ⟨hits_XYF x y _ _ _ rfl _, rowOf_mem _⟩

theorem subn : Statement (.subn x y) := ⟨hits_XYF x y _ _ _ rfl _, rowOf_mem _⟩

theorem shl : Statement (.shl x y) := ⟨hits_XYF x y _ _ _ rfl _, rowOf_mem _⟩

theorem sneReg : Statement (.sneReg x y) := ⟨hits_XYF x y _ _ _ rfl _, rowOf_mem _⟩

theorem ldI : Statement (.ldI nnn) := ⟨hits_NNN nnn _ _ rfl _, rowOf_mem _⟩

theorem jpV0 : Statement (.jpV0 nnn) := ⟨hits_NNN nnn _ _ rfl _, rowOf_mem _⟩

theorem rnd : Statement (.rnd x nn) := ⟨hits_XNN x nn _ _ rfl _, rowOf_mem _⟩

theorem drw : Statement (.drw x y n) := ⟨hits_XYN x y n _ _ rfl _, rowOf_mem _⟩

theorem skp : Statement (.skp x) := ⟨hits_XFF x _ _ _ rfl _, rowOf_mem _⟩

theorem sknp : Statement (.sknp x) := ⟨hits_XFF x _ _ _ rfl _, rowOf_mem _⟩

theorem ldVxDt : Statement (.ldVxDt x) := ⟨hits_XFF x _ _ _ rfl _, rowOf_mem _⟩

theorem ldVxK : Statement (.ldVxK x) := ⟨hits_XFF x _ _ _ rfl _, rowOf_mem _⟩

theorem ldDtVx : Statement (.ldDtVx x) := ⟨hits_XFF x _ _ _ rfl _, rowOf_mem _⟩

theorem ldStVx : Statement (.ldStVx x) := ⟨hits_XFF x _ _ _ rfl _, rowOf_mem _⟩

theorem addI : Statement (.addI x) := ⟨hits_XFF x _ _ _ rfl _, rowOf_mem _⟩

theorem ldF : Statement (.ldF x) := ⟨hits_XFF x _ _ _ rfl _, rowOf_mem _⟩

theorem ldB : Statement (.ldB x) := ⟨hits_XFF x _ _ _ rfl _, rowOf_mem _⟩

theorem stRegs : Statement (.stRegs x) := ⟨hits_XFF x _ _ _ rfl _, rowOf_mem _⟩

theorem ldRegs : Statement (.ldRegs x) := ⟨hits_XFF x _ _ _ rfl _, rowOf_mem _⟩

end Sys2Proof.Laws.EncodesToRow
end

