-- ==== Sys2Proof/Tests/Slice0.lean ====
section
/-! SUPPORT. The model's own tests: words written bit by bit from R76, one or two steps an instruction from
95_test_vectors.md (the vector is named), the events, and for every statement with hypotheses a state and operands
that meet them. -/

namespace Sys2Proof.Tests

open Sys2Proof Sys2Proof.Machine Sys2Proof.Safety

/-! ### Helpers -/

/-- The result is a next state that passes the check. -/
def ends (r : Result) (check : State → Bool) : Bool :=
  match r with
  | .next t => check t
  | .fault _ => false
  | .refused _ => false

/-- The reset state with some V registers set. -/
def regs (vs : List (RegIdx × Byte)) : State := vs.foldl (fun s p => s.writeV p.1 p.2) State.reset

/-- `s` with I = a and the bytes stored from a on. -/
def atI (a : Word) (bs : List Byte) (s : State) : State := (s.pokeList a.toNat bs).writeI a

/-- One step of the instruction word `w` from `s`. -/
def run (s : State) (w : Nat) : Result := step (s.withFetchWord 16 w)

/-- The pixels of a list are all on. -/
def lit (g : Gfx) (ps : List (Fin 64 × Fin 32)) : Bool := ps.all (fun p => g.pixel p.1 p.2)

/-- How many pixels are on. -/
def litCount (g : Gfx) : Nat := (g.flat.filter id).length

/-- The width of a value's type. -/
def widthOf {w : Nat} (_ : BitVec w) : Nat := w

/-- Output records as (code, at, info). -/
def records (t : State) : List (Nat × Word × Nat) :=
  t.outputs.flatMap (fun o => match o with
    | .report r => [r.toRecord]
    | .loadSuccess => []
    | .loadFailed _ => []
    | .soundStop => []
    | .pixels _ => [])

/-! ### Decoding: each word is the bits of its encoding string (R76) -/

theorem test_decode_family0 : decode 0b0000000011100000 = .ok .cls ∧ decode 0b0000000011101110 = .ok .ret := by
  decide

theorem test_decode_nnn :
    decode 0b0001101010111100 = .ok (.jp 0xABC) ∧ decode 0b0010101010111100 = .ok (.call 0xABC) ∧
      decode 0b1010000100100011 = .ok (.ldI 0x123) ∧ decode 0b1011001100000000 = .ok (.jpV0 0x300) := by decide

theorem test_decode_xnn :
    decode 0b0011101001010101 = .ok (.seImm 0xA 0x55) ∧ decode 0b0100101001010101 = .ok (.sneImm 0xA 0x55) ∧
      decode 0b0110101000010010 = .ok (.ldImm 0xA 0x12) ∧ decode 0b0111101011111111 = .ok (.addImm 0xA 0xFF) ∧
      decode 0b1100101000001111 = .ok (.rnd 0xA 0x0F) := by decide

theorem test_decode_skips_on_registers :
    decode 0b0101101010110000 = .ok (.seReg 0xA 0xB) ∧ decode 0b1001101010110000 = .ok (.sneReg 0xA 0xB) := by
  decide

theorem test_decode_family8_no_flag :
    decode 0b1000101010110000 = .ok (.ldReg 0xA 0xB) ∧ decode 0b1000101010110001 = .ok (.orReg 0xA 0xB) ∧
      decode 0b1000101010110010 = .ok (.andReg 0xA 0xB) ∧ decode 0b1000101010110011 = .ok (.xorReg 0xA 0xB) := by
  decide

theorem test_decode_family8_flag :
    decode 0b1000101010110100 = .ok (.addReg 0xA 0xB) ∧ decode 0b1000101010110101 = .ok (.sub 0xA 0xB) ∧
      decode 0b1000101010110110 = .ok (.shr 0xA 0xB) ∧ decode 0b1000101010110111 = .ok (.subn 0xA 0xB) ∧
      decode 0b1000101010111110 = .ok (.shl 0xA 0xB) := by decide

theorem test_decode_drw : decode 0b1101000000010010 = .ok (.drw 0 1 2) := by decide

theorem test_decode_familyE :
    decode 0b1110000110011110 = .ok (.skp 1) ∧ decode 0b1110000110100001 = .ok (.sknp 1) := by decide

theorem test_decode_familyF_timers_and_keys :
    decode 0b1111000100000111 = .ok (.ldVxDt 1) ∧ decode 0b1111001100001010 = .ok (.ldVxK 3) ∧
      decode 0b1111101000010101 = .ok (.ldDtVx 0xA) ∧ decode 0b1111101000011000 = .ok (.ldStVx 0xA) := by decide

theorem test_decode_familyF_index_and_memory :
    decode 0b1111101000011110 = .ok (.addI 0xA) ∧ decode 0b1111101000101001 = .ok (.ldF 0xA) ∧
      decode 0b1111101000110011 = .ok (.ldB 0xA) ∧ decode 0b1111001001010101 = .ok (.stRegs 2) ∧
      decode 0b1111001001100101 = .ok (.ldRegs 2) := by decide

/-- Vector X2, and one word a row of R77. -/
theorem test_unknown_words_are_rejected_by_name :
    ([0x0000, 0x0123, 0x00E1].map decode).all (· == .error .family0) = true ∧
      decode 0x5AB1 = .error .family5 ∧
      ([0x8AB8, 0x8AB9, 0x8ACD, 0x8ABF].map decode).all (· == .error .family8) = true ∧
      decode 0x9ABF = .error .family9 ∧ decode 0xE19F = .error .familyE ∧
      ([0xF000, 0xF1FF, 0xFFFF].map decode).all (· == .error .familyF) = true := by decide

/-- R76: the table has 34 rows, and no word can match two of them. -/
theorem test_no_two_rows_overlap :
    opcodeTable.length = 34 ∧
      opcodeTable.Pairwise (fun r q => r.pattern &&& (r.mask &&& q.mask) ≠ q.pattern &&& (r.mask &&& q.mask)) := by
  decide +kernel

/-- R76: a pattern has no bit outside its mask. -/
theorem test_patterns_lie_in_masks : ∀ r ∈ opcodeTable, r.pattern &&& r.mask = r.pattern := by decide

theorem test_tableWord_is_decoded : decodeTableWord 16 0x8AB4 = some (.addReg 0xA 0xB) ∧ decodeTableWord 16 0 = none := by
  decide

/-! ### Well-formedness -/

/-- The one check: without the key wait (D12, alternative (a)) the instruction is ill-formed and its word unknown. -/
theorem test_key_wait_switched_off :
    (Instr.ldVxK 3).wellFormedIn false = false ∧ decodeIn false 0xF30A = .error .familyF := by decide

theorem test_key_wait_switched_on : (Instr.ldVxK 3).WellFormed ∧ (Instr.drw 0xF 0xF 0xF).WellFormed := by decide

/-! ### Flow (vectors F1 to F21) -/

/-- F1. -/
theorem test_ret_resumes_two_past :
    ends (run { State.reset with stack := State.reset.stack.set 0 0x0ABC, sp := 1 } 0x00EE)
      (fun t => t.sp == 0 && t.pc == 0x0ABE && t.stack[0] == 0x0ABC && t.outputs.isEmpty) = true := by decide

/-- X3. -/
theorem test_ret_underflow :
    ends (run State.reset 0x00EE) (fun t => t.sp == 0 && t.pc == 0x202 && records t == [(3, 0x200, 0)]) = true := by
  decide

/-- F7. -/
theorem test_jp_odd_target : ends (run State.reset 0x1FFF) (fun t => t.pc == 0x0FFF) = true := by decide

/-- F6. -/
theorem test_call_sixteenth :
    ends (run { State.reset with sp := 15 } 0x2ABC)
      (fun t => t.stack[15] == 0x0200 && t.sp == 16 && t.pc == 0x0ABC && t.outputs.isEmpty) = true := by decide

/-- X4. -/
theorem test_call_overflow :
    ends (run { State.reset with sp := 16 } 0x2ABC)
      (fun t => t.stack == State.reset.stack && t.sp == 16 && t.pc == 0x202 && records t == [(2, 0x200, 0)]) = true := by
  decide

/-- F8, F9. -/
theorem test_seImm :
    ends (run (regs [(0xA, 0x55)]) 0x3A55) (fun t => t.pc == 0x204) = true ∧
      ends (run (regs [(0xA, 0x54)]) 0x3A55) (fun t => t.pc == 0x202) = true := by decide

/-- F10, F11. -/
theorem test_sneImm :
    ends (run (regs [(0xA, 0x55)]) 0x4A55) (fun t => t.pc == 0x202) = true ∧
      ends (run (regs [(0xA, 0x54)]) 0x4A55) (fun t => t.pc == 0x204) = true := by decide

/-- F12, F13. -/
theorem test_seReg :
    ends (run (regs [(0xA, 7), (0xB, 7)]) 0x5AB0) (fun t => t.pc == 0x204) = true ∧
      ends (run (regs [(0xA, 7), (0xB, 8)]) 0x5AB0) (fun t => t.pc == 0x202) = true := by decide

/-- F15, F16. -/
theorem test_sneReg :
    ends (run (regs [(0xA, 7), (0xB, 7)]) 0x9AB0) (fun t => t.pc == 0x202) = true ∧
      ends (run (regs [(0xA, 7), (0xB, 8)]) 0x9AB0) (fun t => t.pc == 0x204) = true := by decide

/-- F19. -/
theorem test_jpV0_is_not_masked : ends (run (regs [(0, 0xFF)]) 0xBFFF) (fun t => t.pc == 0x10FE) = true := by decide

/-- F20. -/
theorem test_jpV0_uses_V0 : ends (run (regs [(3, 0x44)]) 0xB300) (fun t => t.pc == 0x0300) = true := by decide

/-- F21: a skip that wraps, after a fetch with both bytes out of range. -/
theorem test_skip_wraps :
    ends (run { State.reset with pc := 0xFFFE } 0x3000)
      (fun t => t.pc == 0x0002 && records t == [(4, 0xFFFE, 0xFFFE), (4, 0xFFFE, 0xFFFF)]) = true := by decide

/-! ### Load, add and ALU (vectors A1 to A39) -/

/-- A2. -/
theorem test_ldImm_to_VF : ends (run State.reset 0x6F01) (fun t => t.readV 0xF == 1 && t.pc == 0x202) = true := by
  decide

/-- A3. -/
theorem test_addImm_sets_no_flag :
    ends (run (regs [(0xA, 0xFF), (0xF, 7)]) 0x7A01) (fun t => t.readV 0xA == 0 && t.readV 0xF == 7) = true := by decide

/-- A6. -/
theorem test_ldReg : ends (run (regs [(0xB, 9), (0xF, 7)]) 0x8AB0) (fun t => t.readV 0xA == 9 && t.readV 0xF == 7) = true := by
  decide

/-- A7, A11. -/
theorem test_orReg :
    ends (run (regs [(0xA, 0xF0), (0xB, 0x0F), (0xF, 7)]) 0x8AB1) (fun t => t.readV 0xA == 0xFF && t.readV 0xF == 7) = true ∧
      ends (run (regs [(0xF, 0x81), (0xB, 2)]) 0x8FB1) (fun t => t.readV 0xF == 0x83) = true := by decide

/-- A8. -/
theorem test_andReg :
    ends (run (regs [(0xA, 0xF0), (0xB, 0x3C), (0xF, 7)]) 0x8AB2) (fun t => t.readV 0xA == 0x30 && t.readV 0xF == 7) = true := by
  decide

/-- A9. -/
theorem test_xorReg :
    ends (run (regs [(0xA, 0xF0), (0xB, 0x3C), (0xF, 7)]) 0x8AB3) (fun t => t.readV 0xA == 0xCC && t.readV 0xF == 7) = true := by
  decide

/-- A15: the old VF is an operand. -/
theorem test_addReg_reads_old_VF :
    ends (run (regs [(0xA, 1), (0xF, 0xFF)]) 0x8AF4) (fun t => t.readV 0xA == 0 && t.readV 0xF == 1) = true := by decide

/-- A14: the flag is written last. -/
theorem test_addReg_to_VF : ends (run (regs [(0xF, 3), (0xB, 4)]) 0x8FB4) (fun t => t.readV 0xF == 0) = true := by decide

/-- A18, A19. -/
theorem test_sub :
    ends (run (regs [(0xA, 5), (0xB, 5)]) 0x8AB5) (fun t => t.readV 0xA == 0 && t.readV 0xF == 1) = true ∧
      ends (run (regs [(0xB, 1)]) 0x8AB5) (fun t => t.readV 0xA == 0xFF && t.readV 0xF == 0) = true := by decide

/-- A23. -/
theorem test_shr_ignores_y :
    ends (run (regs [(0xA, 0x80), (0xB, 1), (0xF, 1)]) 0x8AB6)
      (fun t => t.readV 0xA == 0x40 && t.readV 0xF == 0 && t.readV 0xB == 1) = true := by decide

/-- A26. -/
theorem test_shr_of_VF : ends (run (regs [(0xF, 2)]) 0x8FB6) (fun t => t.readV 0xF == 0) = true := by decide

/-- A27, A28. -/
theorem test_subn :
    ends (run (regs [(0xA, 3), (0xB, 5)]) 0x8AB7) (fun t => t.readV 0xA == 2 && t.readV 0xF == 1) = true ∧
      ends (run (regs [(0xA, 5), (0xB, 3), (0xF, 1)]) 0x8AB7) (fun t => t.readV 0xA == 0xFE && t.readV 0xF == 0) = true := by
  decide

/-- A32, A33. -/
theorem test_shl :
    ends (run (regs [(0xA, 0x40), (0xF, 1)]) 0x8ABE) (fun t => t.readV 0xA == 0x80 && t.readV 0xF == 0) = true ∧
      ends (run (regs [(0xA, 0xFF)]) 0x8ABE) (fun t => t.readV 0xA == 0xFE && t.readV 0xF == 1) = true := by decide

/-- R121: one byte is drawn, and no other register changes. -/
theorem test_rnd_draws_once :
    ends (run (regs [(0xB, 9), (0xF, 7)]) 0xCA0F)
      (fun t => t.draws == 1 && t.pc == 0x202 && t.readV 0xB == 9 && t.readV 0xF == 7) = true := by decide

/-! ### Index and memory (vectors M1 to M24) -/

/-- M1. -/
theorem test_ldI : ends (run State.reset 0xA123) (fun t => t.i == 0x123 && t.pc == 0x202) = true := by decide

/-- M4, M5: the boundary of the flag. -/
theorem test_addI :
    ends (run (atI 0xFFF [] (regs [(0xF, 1)])) 0xFA1E) (fun t => t.i == 0xFFF && t.readV 0xF == 0) = true ∧
      ends (run (atI 0xFFF [] (regs [(0xA, 1)])) 0xFA1E) (fun t => t.i == 0 && t.readV 0xF == 1 && t.outputs.isEmpty) = true := by
  decide

/-- M6: the old VF is the addend. -/
theorem test_addI_reads_old_VF :
    ends (run (atI 0x010 [] (regs [(0xF, 2)])) 0xFF1E) (fun t => t.i == 0x012 && t.readV 0xF == 0) = true := by decide

/-- M9, M10. -/
theorem test_ldF :
    ends (run (regs [(0xA, 0x0A)]) 0xFA29) (fun t => t.i == 0x032) = true ∧
      ends (run (regs [(0xA, 0xFF)]) 0xFA29) (fun t => t.i == 0x4FB) = true := by decide

/-- M12. -/
theorem test_ldB :
    ends (run (atI 0x300 [] (regs [(0xA, 254)])) 0xFA33)
      (fun t => [0x300, 0x301, 0x302].map t.peek == [2, 5, 4] && t.i == 0x300) = true := by decide

/-- M16. -/
theorem test_ldB_wraps :
    ends (run (atI 0xFFE [] (regs [(0xA, 123)])) 0xFA33)
      (fun t => [0xFFE, 0xFFF, 0x000].map t.peek == [1, 2, 3] && records t == [(4, 0x200, 0x1000)]) = true := by decide

/-- M17. -/
theorem test_stRegs :
    ends (run (atI 0x400 [] (regs [(0, 0x11), (1, 0x22), (2, 0x33), (3, 0x44)])) 0xF255)
      (fun t => [0x400, 0x401, 0x402, 0x403].map t.peek == [0x11, 0x22, 0x33, 0] && t.i == 0x400) = true := by decide

/-- X8: a store over the instruction itself. -/
theorem test_stRegs_over_itself :
    ends (run (atI 0x200 [] (regs [(0, 0x12), (1, 0x08)])) 0xF155)
      (fun t => t.peek 0x200 == 0x12 && t.peek 0x201 == 0x08 && t.pc == 0x202) = true := by decide

/-- M21. -/
theorem test_ldRegs :
    ends (run (atI 0x400 [1, 2, 3, 4] (regs [(3, 0x99)])) 0xF265)
      (fun t => [0, 1, 2, 3].map t.readV == [1, 2, 3, 0x99] && t.i == 0x400) = true := by decide

/-- M23. -/
theorem test_ldRegs_wraps :
    ends (run ((atI 0xFFF [0x77] State.reset).poke 0 0x88) 0xF165)
      (fun t => t.readV 0 == 0x77 && t.readV 1 == 0x88 && records t == [(4, 0x200, 0x1000)]) = true := by decide

/-! ### Display (vectors D1 to D14) -/

/-- D1. -/
theorem test_cls :
    ends (run { regs [(0xF, 7)] with gfx := (Gfx.blank.flip 0 0).flip 63 31 } 0x00E0)
      (fun t => litCount t.gfx == 0 && t.drawFlag && t.readV 0xF == 7) = true := by decide +kernel

/-- D4, the document's x = 63 example. -/
theorem test_drw_wraps_columns :
    ends (run (atI 0x300 [0xFF] (regs [(0, 63)])) 0xD011)
      (fun t => lit t.gfx [(63, 0), (0, 0), (1, 0), (2, 0), (3, 0), (4, 0), (5, 0), (6, 0)] && litCount t.gfx == 8 &&
        t.readV 0xF == 0 && t.drawFlag) = true := by decide +kernel

/-- D7. -/
theorem test_drw_collides :
    ends (run { atI 0x300 [0xC0] (regs [(0, 1)]) with gfx := (Gfx.blank.flip 2 0).flip 3 0 } 0xD011)
      (fun t => lit t.gfx [(1, 0), (3, 0)] && litCount t.gfx == 2 && t.readV 0xF == 1) = true := by decide +kernel

/-! ### Keypad and timers -/

/-- R150, R156: key 15 down, and key number 32 (program P5). -/
theorem test_skp :
    ends (run { regs [(1, 15)] with keypad := State.reset.keypad.set 15 true } 0xE19E)
        (fun t => t.pc == 0x204 && t.outputs.isEmpty) = true ∧
      ends (run (regs [(1, 0x20)]) 0xE19E) (fun t => t.pc == 0x202 && records t == [(5, 0x200, 32)]) = true := by decide

/-- R151, R156: key 0 down, and key number 16, which counts as up. -/
theorem test_sknp :
    ends (run { State.reset with keypad := State.reset.keypad.set 0 true } 0xE1A1) (fun t => t.pc == 0x202) = true ∧
      ends (run (regs [(1, 16)]) 0xE1A1) (fun t => t.pc == 0x204 && records t == [(5, 0x200, 16)]) = true := by decide

/-- Program P6: keys 9 and 7 down. -/
theorem test_ldVxK_lowest :
    ends (run { State.reset with keypad := (State.reset.keypad.set 9 true).set 7 true } 0xF30A)
      (fun t => t.readV 3 == 7 && t.pc == 0x202) = true := by decide

/-- Program P6: no key down. -/
theorem test_ldVxK_waits :
    ends (run State.reset 0xF30A) (fun t => t.readV 3 == 0 && t.pc == 0x200 && t.outputs.isEmpty) = true := by decide

theorem test_ldVxDt : ends (run { State.reset with dt := 9 } 0xF107) (fun t => t.readV 1 == 9 && t.dt == 9) = true := by
  decide

/-- T5, its second event. -/
theorem test_ldDtVx : ends (run { regs [(0xA, 9)] with dt := 4 } 0xFA15) (fun t => t.dt == 9 && t.st == 0) = true := by
  decide

theorem test_ldStVx :
    ends (run (regs [(0xA, 9)]) 0xFA18) (fun t => t.st == 9 && t.dt == 0 && t.soundActive) = true := by decide

/-! ### Unknown words, fetch, events -/

/-- X1. -/
theorem test_unknown_word :
    ends (run (regs [(0xA, 1), (0xB, 2)]) 0x8AB8)
      (fun t => t.pc == 0x202 && t.readV 0xA == 1 && records t == [(1, 0x200, 0x8AB8)]) = true := by decide

/-- X7: the first step from reset with nothing loaded. -/
theorem test_step_from_reset : ends (step State.reset) (fun t => t.pc == 0x202 && records t == [(1, 0x200, 0)]) = true := by
  decide

/-- X5: the second fetch byte is out of range. -/
theorem test_fetch_wraps :
    ends (step { (State.reset.poke 0xFFF 0x12).poke 0x000 0x34 with pc := 0xFFF })
      (fun t => t.pc == 0x234 && records t == [(4, 0xFFF, 0x1000)]) = true := by decide

/-- D25, program P5, last step: the order of three reports. -/
theorem test_report_order :
    ends (step { State.reset with pc := 0x1002 })
      (fun t => t.pc == 0x1004 && records t == [(4, 0x1002, 0x1002), (4, 0x1002, 0x1003), (1, 0x1002, 0)]) = true := by
  decide

/-- T2, its second tick, and T4. -/
theorem test_tick :
    ends (step { State.reset with st := 1, schedule := [.tick] })
        (fun t => t.st == 0 && t.dt == 0 && t.outputs == [.soundStop] && t.schedule.isEmpty) = true ∧
      ends (step { State.reset with schedule := [.tick] }) (fun t => t.st == 0 && t.dt == 0 && t.outputs.isEmpty) = true := by
  decide

/-- T6. -/
theorem test_drawAck :
    ends (step { State.reset with drawFlag := true, schedule := [.drawAck] }) (fun t => t == State.reset) = true := by decide

/-- T7. -/
theorem test_keyWrite :
    ends (step { State.reset with schedule := [.keyWrite ((State.reset.keypad.set 4 true).set 9 true)] })
      (fun t => t.keypad[4] && t.keypad[9] && !t.keypad[5]) = true := by decide

/-- R192: an image is copied, and the first Step runs it (program P7, step 1). -/
theorem test_load_then_step :
    ends (Host.Core.run core 2 { State.reset with schedule := [.load (some [0x22, 0x00, 0x12, 0x02]) 0x200] })
      (fun t => t.pc == 0x200 && t.sp == 1 && t.outputs == [.loadSuccess] && t.peek 0x203 == 0x02) = true := by decide

/-- R193, R194: a font at 0x000 after the program, and the Step that fetches the program. -/
theorem test_load_font :
    ends (Host.Core.run core 3
      { State.reset with schedule := [.load (some [0xF0, 0x29]) 0x200, .load (some [0xF0, 0x90]) 0x000] })
      (fun t => t.peek 0 == 0xF0 && t.peek 1 == 0x90 && t.peek 2 == 0 && t.pc == 0x202 &&
        t.outputs == [.loadSuccess, .loadSuccess]) = true := by decide

/-- R192: an unreadable image, and the Step that may not follow it. -/
theorem test_load_fails :
    step { State.reset with phase := .loadFailed } = .refused .stepAfterLoadFailure ∧
      step { State.reset with phase := .running, schedule := [.load none 0x200] } = .fault .loadDuringRun :=
  ⟨rfl, rfl⟩

/-- D22: the longest image. -/
theorem test_load_limit : loadFits 0x200 3584 = true ∧ loadFits 0x200 3585 = false ∧ loadFits 0x201 3584 = false := by
  decide

/-! ### Configuration (R5): the table's values, and the sizes of State that are made from them -/

theorem test_constants :
    Config.memSize = 4096 ∧ Config.addrMask = 0xFFF ∧ Config.progBase = 0x200 ∧ Config.nRegs = 16 ∧
      Config.regWidth = 8 ∧ Config.iWidth = 16 ∧ Config.pcWidth = 16 ∧ Config.stackDepth = 16 ∧ Config.gfxW = 64 ∧
      Config.gfxH = 32 ∧ Config.nKeys = 16 ∧ Config.instrBytes = 2 ∧ Config.glyphStride = 5 ∧ Config.tickNominal = 60 ∧
      Config.maxImage = 3584 := by decide

theorem test_sizes_of_state :
    State.reset.v.toList.length = Config.nRegs ∧ State.reset.stack.toList.length = Config.stackDepth ∧
      State.reset.gfx.toList.map (fun r => r.toList.length) = List.replicate Config.gfxH Config.gfxW ∧
      State.reset.keypad.toList.length = Config.nKeys ∧ widthOf (State.reset.readV 0) = Config.regWidth ∧
      widthOf State.reset.dt = Config.regWidth ∧ widthOf State.reset.i = Config.iWidth ∧
      widthOf State.reset.pc = Config.pcWidth ∧ State.reset.advance.pc = 0x200 + BitVec.ofNat 16 Config.instrBytes := by
  decide

/-! ### Witnesses: what the hypotheses of each statement admit

A state on which a `Step` is the next event: `placed w` is the reset state with the instruction word `w` at pc. -/

def placed (w : Nat) : State := State.reset.withFetchWord 16 w

theorem placed_stepsNext (w : Nat) : StepsNext (placed w) := ⟨Or.inl rfl, Phase.noConfusion⟩

/-- A step event from such a state has a next state: so for one word of each class. -/
theorem wit_step_of_instruction : decode (placed 0x8AB4).fetchedWord = .ok (.addReg 0xA 0xB) ∧
    ends (step (placed 0x8AB4)) (fun _ => true) = true := by decide

theorem wit_step_of_unknown_word : decode (placed 0x8AB8).fetchedWord = .error .family8 ∧
    ends (step (placed 0x8AB8)) (fun _ => true) = true := by decide

/-- DecodeEncodeAgree, PlacedInstructionRunsNext: well-formed instructions, the one whose form the switch decides too. -/
theorem wit_wellFormed : (Instr.ldVxK 0xF).wellFormedIn true = true ∧ (Instr.jp 0xFFF).wellFormedIn false = true := by
  decide

/-- EncodeDecodeAgree. -/
theorem wit_decodeIn : decodeIn true 0xFF0A = .ok (.ldVxK 0xF) ∧ decodeIn false 0xFFFF = .error .familyF := by decide

/-- DecodeFollowsMatchAndMask: a row that a word hits, and a word that hits none. -/
theorem wit_rows :
    (∃ r ∈ opcodeTable, 0x8FF4 &&& r.mask = r.pattern) ∧ (∀ r ∈ opcodeTable, 0x8FF8 &&& r.mask ≠ r.pattern) := by decide

/-- UnknownWordsByFamily: the least and the greatest word of each row of R77. -/
theorem wit_unknown_boundaries :
    decode 0x0000 = .error .family0 ∧ decode 0x0FFF = .error .family0 ∧ decode 0x5001 = .error .family5 ∧
      decode 0x5FFF = .error .family5 ∧ decode 0x8008 = .error .family8 ∧ decode 0x8FFF = .error .family8 ∧
      decode 0x9001 = .error .family9 ∧ decode 0x9FFF = .error .family9 ∧ decode 0xE000 = .error .familyE ∧
      decode 0xEFFF = .error .familyE ∧ decode 0xF000 = .error .familyF ∧ decode 0xFFFF = .error .familyF := by decide

/-- StepAfterFailedLoadIsRefused: both forms of a Step as the next event, another event that completes, and a Reset. -/
theorem wit_failed_load :
    let s : State := { State.reset with phase := .loadFailed }
    s.phase = .loadFailed ∧ s.schedule = [] ∧ ({ s with schedule := [.step] } : State).schedule.head? = some .step ∧
      ({ s with schedule := [.load (some [1]) 0x200] } : State).schedule.head? ≠ some .reset ∧
      ends (step { s with schedule := [.load (some [1]) 0x200] }) (fun t => t.phase == .loadFailed) = true ∧
      ({ s with schedule := [.reset] } : State).schedule.head? = some .reset := by decide

/-- PlacedInstructionRunsNext: a fresh machine, and one whose Load has failed, at a pc whose second byte wraps. -/
theorem wit_placed :
    State.reset.phase ≠ .loadFailed ∧
      ({ State.reset with phase := .loadFailed, pc := 0xFFF } : State).phase = .loadFailed ∧
      ends (run { State.reset with phase := .loadFailed, pc := 0xFFF } 0x6120) (fun t => t.readV 1 == 0x20) = true := by
  decide

/-- EveryStepKeepsTheInvariant: a state with I = 0xFFF and memory listed, which steps. -/
theorem wit_inv : Inv { State.reset with i := 0xFFF, mem := [(0x200, 0x60), (0xFFF, 1)] } ∧
    ends (step { State.reset with i := 0xFFF, mem := [(0x200, 0x60), (0xFFF, 1)] }) (fun _ => true) = true := by
  refine ⟨⟨⟨by decide, by decide⟩, by decide⟩, by decide⟩

/-- StepEventWritesOnlyWhatItMay: the one word LD V1, 0x20 meets the premise of every clause. -/
theorem wit_writes_only :
    decode (placed 0x6120).fetchedWord = .ok (.ldImm 1 0x20) ∧ ends (step (placed 0x6120)) (fun _ => true) = true ∧
      ({ placed 0x6120 with drawFlag := true } : State).drawFlag = true := by decide

/-- The statements over every instruction (memory, pc, flag, registers): next states exist, of a storing form, of
one that writes a flag, and of one that does neither. -/
theorem wit_exec_next :
    ends (exec (.stRegs 0xF) (atI 0xFFF [] State.reset)) (fun _ => true) = true ∧
      ends (exec (.addReg 0xF 0xF) State.reset) (fun _ => true) = true ∧
      ends (exec (.ldVxK 0) State.reset) (fun _ => true) = true := by decide

/-- FlagRegisterAfterEachInstruction: a flag that holds, one that does not, and an instruction with none. -/
theorem wit_flags :
    flagOf (.addReg 0 1) (regs [(0, 0xFF), (1, 1)]) = some ((0xFF : Byte).toNat + (1 : Byte).toNat > 255) ∧
      flagOf (.addReg 0 1) (regs [(0, 0xFF)]) = some ((0xFF : Byte).toNat + (0 : Byte).toNat > 255) ∧
      flagOf .cls State.reset = none ∧ vf ∉ destRegs .cls ∧ (0 : RegIdx) ∉ destRegs (.addReg 1 2) :=
  ⟨rfl, rfl, rfl, by decide, by decide⟩

/-- AtMostEighteenReportsAStep: eighteen are reached with I above 0xFFF and pc above 0xFFF, seventeen with
I = 0xFFF. -/
theorem wit_eighteen_reports :
    ends (run { State.reset with i := 0x1000, pc := 0x1200 } 0xFF65) (fun t => t.outputs.length == 18) = true ∧
      ends (run { State.reset with i := 0x0FFF, pc := 0x1200 } 0xFF65) (fun t => t.outputs.length == 17) = true := by
  decide

/-- ReportFreeExactlyWhenInBounds: in bounds and out of bounds at the boundary of each clause. -/
theorem wit_bounds_index :
    OperandsInBounds (.drw 0 0 15) { State.reset with i := 0xFF1 } ∧
      ¬ OperandsInBounds (.drw 0 0 15) { State.reset with i := 0xFF2 } ∧
      OperandsInBounds (.drw 0 0 0) { State.reset with i := 0xFFFF } ∧
      OperandsInBounds (.ldB 0) { State.reset with i := 0xFFD } ∧ ¬ OperandsInBounds (.ldB 0) { State.reset with i := 0xFFE } ∧
      OperandsInBounds (.stRegs 0xF) { State.reset with i := 0xFF0 } ∧
      ¬ OperandsInBounds (.ldRegs 0xF) { State.reset with i := 0xFF1 } := by
  simp only [OperandsInBounds]; decide

theorem wit_bounds_keys_and_stack :
    OperandsInBounds (.skp 0) (regs [(0, 15)]) ∧ ¬ OperandsInBounds (.sknp 0) (regs [(0, 16)]) ∧
      OperandsInBounds (.call 0) { State.reset with sp := 15 } ∧ ¬ OperandsInBounds (.call 0) { State.reset with sp := 16 } ∧
      OperandsInBounds .ret { State.reset with sp := 1 } ∧ ¬ OperandsInBounds .ret State.reset := by
  simp only [OperandsInBounds]; decide

/-- pc = 0xFFE fetches without a report, pc = 0xFFF does not. -/
theorem wit_bounds_pc :
    ends (run { State.reset with pc := 0xFFE } 0x6120) (fun t => t.outputs.isEmpty) = true ∧
      ends (run { State.reset with pc := 0xFFF } 0x6120) (fun t => t.outputs.length == 1) = true := by decide

/-- ProgramsCannotObserveSoundOrRedraw: two states that differ in all four things. -/
theorem wit_same_to_programs :
    SameToPrograms (placed 0x6120) { placed 0x6120 with st := 9, drawFlag := true, outputs := [.soundStop], phase := .running } ∧
      StepsNext { placed 0x6120 with st := 9, drawFlag := true, outputs := [.soundStop], phase := .running } :=
  ⟨⟨rfl, rfl, rfl, rfl, rfl, rfl, rfl, rfl, rfl, rfl⟩, Or.inl rfl, Phase.noConfusion⟩

/-- RetReturnsOrReports, CallPushesItsOwnAddress, CallThenRetResumesAfterTheCall: sp at 0, 1, 15 and 16. -/
theorem wit_stack_depths :
    State.reset.sp.val = 0 ∧ ({ State.reset with sp := 1 } : State).sp.val ≠ 0 ∧
      ({ State.reset with sp := 15 } : State).sp.val < 16 ∧ ({ State.reset with sp := 16 } : State).sp.val = 16 := by decide

/-- CallThenRetResumesAfterTheCall: after the call, a nested call has left a dead entry above sp. -/
theorem wit_call_then_ret :
    State.reset.sp.val < 16 ∧
      ends (exec (.call 0x300) State.reset) (fun t =>
        ends (exec (.call 0x400) t) (fun n => ends (exec .ret n) (fun u =>
          decide (u.sp = t.sp) && decide (∀ k : Fin 16, k.val < u.sp.val → u.stack[k.val] = t.stack[k.val]) &&
            decide (u.stack ≠ t.stack) && ends (exec .ret u) (fun r => r.pc == 0x202 && r.sp == 0)))) = true := by decide

/-- JpJumpsUnconditionally, SelfJumpIsAFixedPoint: a jump to itself. -/
theorem wit_self_jump :
    let s : State := { placed 0x1200 with phase := .running }
    s.schedule = [] ∧ s.phase = .running ∧ s.pc = (0x200 : BitVec 12).setWidth 16 ∧ (0x200 : BitVec 12).toNat ≤ 0xFFE ∧
      s.fetchedWord = encode (.jp 0x200) ∧ s.pc.toNat = (0x200 : BitVec 12).toNat := by decide

/-- The highest self-jump a fetch reaches without a report. -/
theorem wit_self_jump_highest :
    let s : State := { ({ State.reset with pc := 0xFFE } : State).withFetchWord 16 0x1FFE with phase := .running }
    s.schedule = [] ∧ s.pc = (0xFFE : BitVec 12).setWidth 16 ∧ s.fetchedWord = encode (.jp 0xFFE) := by decide

/-- SkipsOnImmediate, SkipsOnRegisters: the condition holds and fails. -/
theorem wit_skip_conditions :
    ((regs [(1, 0xFF)]).readV 1).toNat = (0xFF : Byte).toNat ∧ ((regs [(1, 0xFE)]).readV 1).toNat ≠ (0xFF : Byte).toNat ∧
      fieldFamily 0x5AB1 = 0x5 ∧ fieldN 0x5AB1 ≠ 0 ∧ fieldFamily 0x9ABF = 0x9 ∧ fieldN 0x9ABF ≠ 0 := by decide

/-- AddWithCarry, SubtractBothWays, ShiftsMoveOneBitIntoVF: each flag at the two sides of its boundary. -/
theorem wit_alu_flags :
    carryOut 0xFF 1 = true ∧ carryOut 0xFE 1 = false ∧ noBorrow 5 5 = true ∧ noBorrow 4 5 = false ∧
      shiftedOutRight 1 = true ∧ shiftedOutRight 0xFE = false ∧ shiftedOutLeft 0x80 = true ∧ shiftedOutLeft 0x7F = false := by
  decide

/-- RndMasksAFreeByte has a clause for the mask 0; WraparoundLaw has three instructions in a row. -/
theorem wit_wraparound :
    ends (exec (.ldImm 0xF 0xF0) State.reset) (fun t => ends (exec (.addImm 0xF 0x20) t) (fun u => u.readV 0xF == 0x10)) = true := by
  decide

/-- AddIndexFlagsPassingTheTop: the sums 0xFFF and 0x1000. -/
theorem wit_index_sums :
    (atI 0xFFF [] State.reset).i.toNat + (State.reset.readV 0).toNat ≤ 0xFFF ∧
      (atI 0xFFF [] (regs [(0, 1)])).i.toNat + ((regs [(0, 1)]).readV 0).toNat > 0xFFF := by decide

/-- RegisterDumpStoresV0ToVx, RegisterLoadFillsV0ToVx, DumpThenLoadRestoresRegisters: registers at and above x, and a
dump that a load follows. -/
theorem wit_register_blocks :
    (0xF : RegIdx) ≤ 0xF ∧ (0xE : RegIdx) < 0xF ∧
      ends (exec (.stRegs 1) (atI 0xFFF [] (regs [(0, 7), (1, 8)])))
        (fun t => ends (exec (.ldRegs 1) { State.reset with mem := t.mem, i := t.i })
          (fun r => r.readV 0 == 7 && r.readV 1 == 8)) = true := by decide

/-- MemoryPrimitivesMaskAndReport: the last address in range and the first outside. -/
theorem wit_addresses :
    (State.reset.memWrite 0xFFF 7).outputs = [] ∧ ((State.reset.memWrite 0x1000 7).peek 0 = 7) ∧
      (State.reset.memWrite 0x1000 7).outputs.length = 1 := by decide

/-- DrwXorsTheSprite, BlitTogglesExactlyTheSprite: a pixel that is covered, across both edges. -/
theorem wit_covered : SpriteCovers 63 31 [0x00, 0x01] 6 0 :=
  ⟨1, 7, 0x01, by decide, rfl, by decide, by decide, by decide⟩

/-- A sprite with no rows covers no pixel. -/
theorem wit_not_covered (px : Fin 64) (py : Fin 32) : ¬ SpriteCovers 0 0 [] px py := by
  rintro ⟨r, c, row, _, h, _⟩
  cases h

/-- BlitTogglesExactlyTheSprite: the longest sprite. -/
theorem wit_longest_sprite : (List.replicate 15 (0x80 : Byte)).length ≤ 15 := by decide

/-- DrawingTwiceRestoresTheDisplay: two draws of the sprite 0x80 at (0, 0), the second with a collision. -/
theorem wit_draw_twice :
    (0 : RegIdx) ≠ vf ∧ (1 : RegIdx) ≠ vf ∧
      ends (exec (.drw 0 1 1) (atI 0x300 [0x80] State.reset))
        (fun t => ends (exec (.drw 0 1 1) t) (fun u => t.readV vf == 0 && u.readV vf == 1)) = true := by decide +kernel

/-- SnapshotIsRowMajor, and every statement about an event: a schedule that begins with it. -/
theorem wit_schedules :
    ({ State.reset with schedule := [.snapshot, .tick] } : State).schedule = .snapshot :: [.tick] ∧
      ({ State.reset with schedule := [.tick, .tick, .step] } : State).schedule = List.replicate 2 .tick ++ [.step] ∧
      ({ State.reset with schedule := [.drawAck] } : State).schedule = .drawAck :: [] ∧
      ({ State.reset with schedule := [.keyWrite State.reset.keypad] } : State).schedule = .keyWrite State.reset.keypad :: [] ∧
      ({ State.reset with schedule := [.reset] } : State).schedule = .reset :: [] :=
  ⟨rfl, rfl, rfl, rfl, rfl⟩

/-- KeySkipsCheckTheKeyNumber: key 15 down, and number 16, which is no key. -/
theorem wit_key_down : KeyIsDown { State.reset with keypad := State.reset.keypad.set 15 true } 15 := ⟨by decide, rfl⟩

theorem wit_key_not_down : ¬ KeyIsDown { State.reset with keypad := State.reset.keypad.set 15 true } 16 := by
  rintro ⟨h, _⟩
  exact absurd h (by decide)

/-- KeyWaitTakesTheLowestKey: a key that is down, and none. -/
theorem wit_key_wait :
    (∃ k : Fin 16, ({ State.reset with keypad := State.reset.keypad.set 15 true } : State).keypad[k.val] = true) ∧
      (∀ k : Fin 16, State.reset.keypad[k.val] = false) := by decide

/-- TicksCountDownToZero: ST reaches 0 within the ticks, or is 0 before them. -/
theorem wit_ticks :
    ends (Host.Core.run core 3 { State.reset with dt := 10, st := 2, schedule := [.tick, .tick, .tick] })
      (fun t => t.dt == 7 && t.st == 0 && t.outputs == [.soundStop]) = true := by decide

/-- LoadCopiesTheImageOrFails: the phases, and images at the limit of each base and one byte past it. -/
theorem wit_load :
    ({ State.reset with phase := .running } : State).phase = .running ∧ State.reset.phase ≠ .running ∧
      ((List.replicate 3584 (1 : Byte)).length ≤ 3584 ∧ 0x200 + (List.replicate 3584 (1 : Byte)).length ≤ 0x1000) ∧
      ¬ ((List.replicate 3585 (1 : Byte)).length ≤ 3584 ∧ 0x200 + (List.replicate 3585 (1 : Byte)).length ≤ 0x1000) ∧
      ((List.replicate 512 (1 : Byte)).length ≤ 3584 ∧ 0x000 + (List.replicate 512 (1 : Byte)).length ≤ 0x1000) := by
  simp only [List.length_replicate]
  decide

end Sys2Proof.Tests
end

section
/-! SUPPORT. Each instruction as a total function on states, and the frame of every instruction: the rows of the
access table (R39) that speak of a `Step`. -/

namespace Sys2Proof.Machine

open Sys2Proof.Safety

/-! ### The next state of an instruction -/

/-- The state an instruction ends in. No instruction stops (`exec_eq`), so the other two outcomes never count. -/
def State.afterInstr (s : State) (i : Instr) : State :=
  match exec i s with
  | .next t => t
  | .fault _ => s
  | .refused _ => s

section Equations

variable (s : State) (x y : RegIdx) (nn : Byte) (nnn : BitVec 12) (n : Fin 16)

@[simp] theorem State.afterInstr_cls : s.afterInstr .cls = (s.redraw Gfx.blank).advance := rfl

theorem State.afterInstr_ret : s.afterInstr .ret =
    if h : s.sp.val = 0 then (s.report .stackUnderflow 0).advance else ((s.pop h).jumpTo (s.top h)).advance := rfl

@[simp] theorem State.afterInstr_jp : s.afterInstr (.jp nnn) = s.jumpTo (zext16 nnn) := rfl

theorem State.afterInstr_call : s.afterInstr (.call nnn) =
    if h : s.sp.val < 16 then (s.push s.pc h).jumpTo (zext16 nnn) else (s.report .stackOverflow 0).advance := rfl

@[simp] theorem State.afterInstr_seImm : s.afterInstr (.seImm x nn) = s.skipIf (s.readV x == nn) := rfl

@[simp] theorem State.afterInstr_sneImm : s.afterInstr (.sneImm x nn) = s.skipIf (s.readV x != nn) := rfl

@[simp] theorem State.afterInstr_seReg : s.afterInstr (.seReg x y) = s.skipIf (s.readV x == s.readV y) := rfl

@[simp] theorem State.afterInstr_sneReg : s.afterInstr (.sneReg x y) = s.skipIf (s.readV x != s.readV y) := rfl

@[simp] theorem State.afterInstr_ldImm : s.afterInstr (.ldImm x nn) = (s.writeV x nn).advance := rfl

@[simp] theorem State.afterInstr_addImm : s.afterInstr (.addImm x nn) = (s.writeV x (s.readV x + nn)).advance := rfl

@[simp] theorem State.afterInstr_ldReg : s.afterInstr (.ldReg x y) = (s.writeV x (s.readV y)).advance := rfl

@[simp] theorem State.afterInstr_orReg :
    s.afterInstr (.orReg x y) = (s.writeV x (s.readV x ||| s.readV y)).advance := rfl

@[simp] theorem State.afterInstr_andReg :
    s.afterInstr (.andReg x y) = (s.writeV x (s.readV x &&& s.readV y)).advance := rfl

@[simp] theorem State.afterInstr_xorReg :
    s.afterInstr (.xorReg x y) = (s.writeV x (s.readV x ^^^ s.readV y)).advance := rfl

@[simp] theorem State.afterInstr_addReg : s.afterInstr (.addReg x y) =
    (s.writeResult x (s.readV x + s.readV y) (carryOut (s.readV x) (s.readV y))).advance := rfl

@[simp] theorem State.afterInstr_sub : s.afterInstr (.sub x y) =
    (s.writeResult x (s.readV x - s.readV y) (noBorrow (s.readV x) (s.readV y))).advance := rfl

@[simp] theorem State.afterInstr_shr : s.afterInstr (.shr x y) =
    (s.writeResult x (s.readV x >>> 1) (shiftedOutRight (s.readV x))).advance := rfl

@[simp] theorem State.afterInstr_subn : s.afterInstr (.subn x y) =
    (s.writeResult x (s.readV y - s.readV x) (noBorrow (s.readV y) (s.readV x))).advance := rfl

@[simp] theorem State.afterInstr_shl : s.afterInstr (.shl x y) =
    (s.writeResult x (s.readV x <<< 1) (shiftedOutLeft (s.readV x))).advance := rfl

@[simp] theorem State.afterInstr_ldI : s.afterInstr (.ldI nnn) = (s.writeI (zext16 nnn)).advance := rfl

@[simp] theorem State.afterInstr_jpV0 :
    s.afterInstr (.jpV0 nnn) = s.jumpTo (zext16 nnn + (s.readV 0).setWidth 16) := rfl

@[simp] theorem State.afterInstr_rnd :
    s.afterInstr (.rnd x nn) = ((s.writeV x (s.randomByte &&& nn)).advanceDraw).advance := rfl

@[simp] theorem State.afterInstr_drw : s.afterInstr (.drw x y n) =
    (((s.checkAddrs (s.addrs n.val)).redraw (s.gfx.blit (s.readV x) (s.readV y) (s.spriteRows n.val)).1).writeFlag
      (s.gfx.blit (s.readV x) (s.readV y) (s.spriteRows n.val)).2).advance := rfl

@[simp] theorem State.afterInstr_skp :
    s.afterInstr (.skp x) = (s.checkKey (s.readV x)).skipIf (s.keyDown (s.readV x)) := rfl

@[simp] theorem State.afterInstr_sknp :
    s.afterInstr (.sknp x) = (s.checkKey (s.readV x)).skipIf (!s.keyDown (s.readV x)) := rfl

@[simp] theorem State.afterInstr_ldVxDt : s.afterInstr (.ldVxDt x) = (s.writeV x s.dt).advance := rfl

/-- The key wait: with no key down nothing changes (R152). -/
theorem State.afterInstr_ldVxK : s.afterInstr (.ldVxK x) =
    s.lowestKey.elim s (fun k => (s.writeV x (BitVec.ofNat 8 k.val)).advance) := by
  cases h : s.lowestKey <;> simp [State.afterInstr, exec, execLdVxK, h]

@[simp] theorem State.afterInstr_ldDtVx : s.afterInstr (.ldDtVx x) = { s with dt := s.readV x }.advance := rfl

@[simp] theorem State.afterInstr_ldStVx : s.afterInstr (.ldStVx x) = { s with st := s.readV x }.advance := rfl

@[simp] theorem State.afterInstr_addI : s.afterInstr (.addI x) =
    ((s.writeI (BitVec.ofNat 16 (s.addr (s.readV x).toNat % 4096))).writeFlag
      (indexOverflow (s.addr (s.readV x).toNat))).advance := rfl

@[simp] theorem State.afterInstr_ldF : s.afterInstr (.ldF x) = (s.writeI (glyphAddr (s.readV x))).advance := rfl

@[simp] theorem State.afterInstr_ldB :
    s.afterInstr (.ldB x) = (s.memWriteList (s.addr 0) (decimalDigits (s.readV x))).advance := rfl

@[simp] theorem State.afterInstr_stRegs :
    s.afterInstr (.stRegs x) = (s.memWriteList (s.addr 0) ((regsUpTo x).map s.readV)).advance := rfl

@[simp] theorem State.afterInstr_ldRegs : s.afterInstr (.ldRegs x) = (s.loadRegs (regsUpTo x)).advance := rfl

end Equations

/-- Every instruction has a next state, in every state (R161). -/
theorem exec_eq (i : Instr) (s : State) : exec i s = .next (s.afterInstr i) := by
  cases i with
  | ldVxK x => cases h : s.lowestKey <;> simp [State.afterInstr, exec, execLdVxK, h]
  | _ => rfl

theorem exec_eq_next_iff (i : Instr) (s t : State) : exec i s = .next t ↔ t = s.afterInstr i := by
  rw [exec_eq, Host.Outcome.next.injEq, eq_comm]

/-! ### The frame of an instruction (R39) -/

/-- What instruction `i` may leave changed between `s` and `t`: the rows of the access table (R39), the V registers
and pc apart, which have tables of their own (R22, R25). -/
structure Frame (i : Instr) (s t : State) : Prop where
  keypad : t.keypad = s.keypad
  schedule : t.schedule = s.schedule
  phase : t.phase = s.phase
  drawFlag : s.drawFlag = true → t.drawFlag = true
  display : i ≠ .cls → (∀ x y n, i ≠ .drw x y n) → SameDisplay s t
  dt : (∀ x, i ≠ .ldDtVx x) → t.dt = s.dt
  st : (∀ x, i ≠ .ldStVx x) → t.st = s.st
  stack : (∀ nnn, i ≠ .call nnn) → t.stack = s.stack
  sp : (∀ nnn, i ≠ .call nnn) → i ≠ .ret → t.sp = s.sp
  index : (∀ nnn, i ≠ .ldI nnn) → (∀ x, i ≠ .addI x) → (∀ x, i ≠ .ldF x) → t.i = s.i
  memory : (∀ x, i ≠ .ldB x) → (∀ x, i ≠ .stRegs x) → t.mem = s.mem
  draws : (∀ x nn, i ≠ .rnd x nn) → t.draws = s.draws

/-- Every instruction keeps to the access table. -/
theorem State.afterInstr_frame (s : State) (i : Instr) : Frame i s (s.afterInstr i) := by
  cases i with
  | ret =>
    rw [State.afterInstr_ret]
    split <;> constructor <;> simp [SameDisplay]
  | call nnn =>
    rw [State.afterInstr_call]
    split <;> constructor <;> simp [SameDisplay]
  | ldVxK x =>
    rw [State.afterInstr_ldVxK]
    cases s.lowestKey <;> constructor <;> simp [SameDisplay]
  | _ => constructor <;> simp [SameDisplay]

end Sys2Proof.Machine
end

section
/-! SUPPORT. The `Step` event as a total function on states (R81), and what each event does to the invariant (R38). -/

namespace Sys2Proof.Machine

open Sys2Proof.Safety

variable (s : State)

/-! ### The Step event -/

/-- The state after the word `w` is executed: the instruction's, or the one R78 gives for an unknown word. -/
def State.afterWord (w : Word) : State :=
  match decode w with
  | .ok i => s.afterInstr i
  | .error _ => s.unknownWord w

theorem State.afterWord_of_ok {w : Word} {i : Instr} (h : decode w = .ok i) : s.afterWord w = s.afterInstr i := by
  simp [State.afterWord, h]

theorem State.afterWord_of_error {w : Word} {e : DecodeReject} (h : decode w = .error e) :
    s.afterWord w = s.unknownWord w := by
  simp [State.afterWord, h]

theorem State.execDecoded_eq (w : Word) : s.execDecoded w = .next (s.afterWord w) := by
  unfold State.execDecoded State.afterWord
  cases decode w with
  | ok i => exact exec_eq i s
  | error e => rfl

theorem State.coreStep_eq (h : s.phase ≠ .loadFailed) :
    s.coreStep = .next (s.afterFetch.afterWord s.fetchedWord) := by
  rw [← State.execDecoded_eq]
  exact if_neg h

/-- The state an instruction is executed from when the next event is a `Step`: the schedule has lost its head, and the
fetch has made its reports (R81). -/
def State.fetched : State := ({ s with schedule := s.schedule.tail } : State).afterFetch

theorem State.fetched_eq :
    s.fetched = { s with
      schedule := s.schedule.tail
      phase := .running
      outputs := s.outputs ++ rangeReports s.pc [s.pc.toNat, s.pc.toNat + 1] } :=
  State.afterFetch_eq _

theorem step_of_stepsNext {s : State} (h : StepsNext s) : step s = .next (s.fetched.afterWord s.fetchedWord) := by
  rw [step_eq_coreStep s h]
  exact State.coreStep_eq _ h.2

/-- What a step can be: a `Step` event on the rest of the schedule, or another event delivered to it (R170, R171). -/
theorem step_cases {s t : State} (h : step s = .next t) :
    (StepsNext s ∧ t = s.fetched.afterWord s.fetchedWord) ∨
      ∃ e rest, s.schedule = e :: rest ∧ e ≠ .step ∧ ({ s with schedule := rest } : State).deliver e = .next t := by
  by_cases hs : s.schedule = [] ∨ s.schedule.head? = some .step
  · left
    have hphase : s.phase ≠ .loadFailed := by
      intro hp
      obtain hnil | hhead := hs
      · simp [step, hnil, State.coreStep, hp] at h
      · obtain ⟨rest, hsch⟩ : ∃ rest, s.schedule = .step :: rest := by
          cases hsch : s.schedule with
          | nil => simp [hsch] at hhead
          | cons e rest => exact ⟨rest, by simpa [hsch] using hhead⟩
        simp [step, hsch, State.deliver, State.coreStep, hp] at h
    refine ⟨⟨hs, hphase⟩, ?_⟩
    simpa [step_of_stepsNext ⟨hs, hphase⟩, eq_comm] using h
  · right
    cases hsch : s.schedule with
    | nil => exact absurd (.inl hsch) hs
    | cons e rest =>
      refine ⟨e, rest, rfl, fun he => hs (.inr (by simp [hsch, he])), ?_⟩
      simpa [step, hsch] using h

/-! ### The invariant (R24, R38) -/

theorem State.afterInstr_mem_wf {s : State} (h : s.mem.wf) (i : Instr) : (s.afterInstr i).mem.wf := by
  cases i with
  | ldB x => exact State.memWriteList_mem_wf s h _ _
  | stRegs x => exact State.memWriteList_mem_wf s h _ _
  | _ => rwa [(s.afterInstr_frame _).memory (by simp) (by simp)]

theorem zext16_toNat_le (nnn : BitVec 12) : (zext16 nnn).toNat ≤ 0xFFF := by
  have hlt := nnn.isLt
  simp only [zext16, BitVec.toNat_setWidth]
  omega

theorem glyphAddr_toNat_le (b : Byte) : (glyphAddr b).toNat ≤ 0xFFF := by
  have hprod : b.toNat * Config.glyphStride ≤ 255 * 5 := Nat.mul_le_mul_right 5 (Nat.le_of_lt_succ b.isLt)
  exact (BitVec.toNat_ofNat _ _).trans_le ((Nat.mod_le _ _).trans (hprod.trans (by decide)))

/-- The three instructions that write I keep it at most 0xFFF: an immediate of 12 bits, a sum taken mod 4096, an
address in the font (R24). -/
theorem State.afterInstr_i_le {s : State} (h : s.i.toNat ≤ 0xFFF) (i : Instr) : (s.afterInstr i).i.toNat ≤ 0xFFF := by
  cases i with
  | ldI nnn => exact zext16_toNat_le nnn
  | addI x =>
    have hmod : (s.addr (s.readV x).toNat % 4096) % 2 ^ 16 ≤ 0xFFF := by omega
    exact (BitVec.toNat_ofNat _ 16).trans_le hmod
  | ldF x => exact glyphAddr_toNat_le _
  | _ => rwa [(s.afterInstr_frame _).index (by simp) (by simp) (by simp)]

theorem State.afterWord_inv {s : State} (h : Inv s) (w : Word) : Inv (s.afterWord w) := by
  cases hd : decode w with
  | ok i =>
    rw [s.afterWord_of_ok hd]
    exact ⟨State.afterInstr_mem_wf h.1 i, State.afterInstr_i_le h.2 i⟩
  | error e =>
    rw [s.afterWord_of_error hd]
    exact h

theorem State.fetched_inv {s : State} (h : Inv s) : Inv s.fetched := by
  rw [State.fetched_eq]
  exact h

theorem State.reset_inv : Inv State.reset := ⟨Memory.nil_wf, by decide⟩

theorem State.tickEvent_inv {s : State} (h : Inv s) : Inv s.tickEvent := by
  rw [State.tickEvent_eq]
  exact h

theorem State.loadEvent_inv {s t : State} {image : Option (List Byte)} {base : Nat} (h : Inv s)
    (ht : s.loadEvent image base = .next t) : Inv t := by
  obtain ⟨hmem, hi⟩ := h
  unfold State.loadEvent at ht
  split at ht
  · cases ht
  · split at ht
    · cases ht
      exact ⟨hmem, hi⟩
    · next bytes =>
      split at ht <;> cases ht
      · exact ⟨State.pokeList_mem_wf s hmem base bytes, by simpa using hi⟩
      · exact ⟨hmem, hi⟩

/-- Every event other than a `Step` keeps the invariant. -/
theorem State.deliver_inv {s t : State} {e : Event} (he : e ≠ .step) (h : Inv s) (ht : s.deliver e = .next t) :
    Inv t := by
  cases e with
  | step => exact absurd rfl he
  | load image base => exact State.loadEvent_inv h ht
  | reset => cases ht; exact State.reset_inv
  | tick => cases ht; exact State.tickEvent_inv h
  | keyWrite keys => cases ht; exact h
  | drawAck => cases ht; exact h
  | snapshot => cases ht; exact h

end Sys2Proof.Machine

namespace Sys2Proof.Proofs

open Sys2Proof.Machine Sys2Proof.Safety

/-- Settles O13: memory is empty and I is 0. -/
theorem resetMeetsTheInvariant : Obligations.ResetMeetsTheInvariant := State.reset_inv

/-- Settles O14, a `Step` and each other event apart. Only the two stores write memory, through `Memory.set`, and only
three instructions write I; the canonical form is the model's own (log 11). -/
theorem everyStepKeepsTheInvariant : Obligations.EveryStepKeepsTheInvariant := by
  intro s t hinv hstep
  obtain ⟨-, rfl⟩ | ⟨e, rest, -, he, hdel⟩ := step_cases hstep
  · exact State.afterWord_inv (State.fetched_inv hinv) _
  · exact State.deliver_inv (s := { s with schedule := rest }) he hinv hdel

end Sys2Proof.Proofs
end

section
/-! SUPPORT. What a program can see of the state, and that each instruction computes the visible part of its next
state from the visible part of the state before it (R30, R32, R160, R174). -/

namespace Sys2Proof.Machine

open Sys2Proof.Safety

variable (s : State)

/-- The part of a state that instructions read: ST, drawFlag, the outputs and the host's schedule and phase are set
to fixed values. -/
def State.programView : State :=
  { s with st := 0, drawFlag := false, outputs := [], schedule := [], phase := .running }

/-- Two states are the same to programs if and only if they have the same view. -/
theorem sameToPrograms_iff (s t : State) : SameToPrograms s t ↔ s.programView = t.programView := by
  simp [SameToPrograms, State.programView]

@[simp] theorem State.advance_programView : s.advance.programView = s.programView.advance := rfl

@[simp] theorem State.skipIf_programView (c : Bool) : (s.skipIf c).programView = s.programView.skipIf c := rfl

@[simp] theorem State.checkAddr_programView (a : Nat) : (s.checkAddr a).programView = s.programView := by
  rw [State.checkAddr_eq]; rfl

@[simp] theorem State.checkAddrs_programView (as : List Nat) : (s.checkAddrs as).programView = s.programView := by
  rw [State.checkAddrs_eq]; rfl

@[simp] theorem State.checkKey_programView (b : Byte) : (s.checkKey b).programView = s.programView := by
  unfold State.checkKey
  split <;> rfl

/-- A run of byte writes is seen as the writes, without their reports. -/
@[simp] theorem State.memWriteList_programView (a : Nat) (bs : List Byte) :
    (s.memWriteList a bs).programView = s.programView.pokeList a bs := by
  induction bs generalizing a s with
  | nil => rfl
  | cons b bs ih =>
    have hwrite : (s.memWrite a b).programView = s.programView.poke a b := by
      rw [← State.checkAddr_programView s a]; rfl
    rw [State.memWriteList, ih, hwrite]; rfl

/-- A block load sees its own registers, memory and I, and no more. -/
theorem State.loadRegs_programView (ks : List RegIdx) :
    (s.loadRegs ks).programView = (s.programView.loadRegs ks).programView := by
  induction ks generalizing s with
  | nil => rfl
  | cons k ks ih =>
    rw [State.loadRegs, State.loadRegs, ih, ih ((s.programView.checkAddr _).writeV _ _), State.checkAddr_eq,
      State.checkAddr_eq]
    rfl

/-- What a program sees after an instruction is computed from what it saw before. Most instructions are one expression
in the fields of the view; the others report, branch or loop. -/
theorem State.afterInstr_programView (i : Instr) :
    (s.afterInstr i).programView = (s.programView.afterInstr i).programView := by
  cases i with
  | ret =>
    rw [State.afterInstr_ret, State.afterInstr_ret]
    by_cases h : s.sp.val = 0
    · rw [dif_pos h, dif_pos (show s.programView.sp.val = 0 from h)]; rfl
    · rw [dif_neg h, dif_neg (show s.programView.sp.val ≠ 0 from h)]; rfl
  | call nnn =>
    rw [State.afterInstr_call, State.afterInstr_call]
    by_cases h : s.sp.val < 16
    · rw [dif_pos h, dif_pos (show s.programView.sp.val < 16 from h)]; rfl
    · rw [dif_neg h, dif_neg (show ¬ s.programView.sp.val < 16 from h)]; rfl
  | ldVxK x =>
    have hkey : s.programView.lowestKey = s.lowestKey := rfl
    rw [State.afterInstr_ldVxK, State.afterInstr_ldVxK, hkey]
    cases s.lowestKey <;> rfl
  | drw x y n => rw [State.afterInstr_drw, State.afterInstr_drw, State.checkAddrs_eq, State.checkAddrs_eq]; rfl
  | skp x => simp only [State.afterInstr_skp, State.skipIf_programView, State.checkKey_programView]; rfl
  | sknp x => simp only [State.afterInstr_sknp, State.skipIf_programView, State.checkKey_programView]; rfl
  | ldB x => simp only [State.afterInstr_ldB, State.advance_programView, State.memWriteList_programView]; rfl
  | stRegs x => simp only [State.afterInstr_stRegs, State.advance_programView, State.memWriteList_programView]; rfl
  | ldRegs x =>
    rw [State.afterInstr_ldRegs, State.afterInstr_ldRegs, State.advance_programView, State.loadRegs_programView]
    rfl
  | _ => rfl

theorem State.afterWord_programView (w : Word) :
    (s.afterWord w).programView = (s.programView.afterWord w).programView := by
  cases hd : decode w with
  | ok i =>
    rw [State.afterWord_of_ok _ hd, State.afterWord_of_ok _ hd]
    exact s.afterInstr_programView i
  | error e =>
    rw [State.afterWord_of_error _ hd, State.afterWord_of_error _ hd]
    rfl

/-- The whole `Step` event, fetch included: both the word fetched and what executing it does are read off the view. -/
theorem State.fetched_afterWord_programView :
    (s.fetched.afterWord s.fetchedWord).programView =
      (s.programView.afterWord s.programView.fetchedWord).programView := by
  have hfetched : s.fetched.programView = s.programView := by rw [State.fetched_eq]; rfl
  have hword : s.programView.fetchedWord = s.fetchedWord := rfl
  rw [State.afterWord_programView, hfetched, hword]

end Sys2Proof.Machine

namespace Sys2Proof.Proofs

open Sys2Proof.Machine Sys2Proof.Safety

/-- Settles O23: two states are the same to programs when they have the same view, and the view after a `Step` is
computed from the view before it. -/
theorem programsCannotObserveSoundOrRedraw : Obligations.ProgramsCannotObserveSoundOrRedraw := by
  intro s t s' hst hs ht hstep
  rw [step_of_stepsNext hs] at hstep
  cases hstep
  refine ⟨_, step_of_stepsNext ht, ?_⟩
  rw [sameToPrograms_iff] at hst ⊢
  rw [State.fetched_afterWord_programView, State.fetched_afterWord_programView, hst]

end Sys2Proof.Proofs
end

section
/-! SUPPORT. The access table on a whole `Step` (R39), pc after each instruction (R25), the V registers it leaves
alone (R22), and the state after reset (R37). -/

namespace Sys2Proof.Machine

open Sys2Proof.Safety

variable (s : State)

/-! ### pc after an instruction (R25) -/

/-- `JP V0` adds numbers: the sum is below 2^16, and is not masked (R107). -/
theorem zext16_add_setWidth (nnn : BitVec 12) (b : Byte) :
    zext16 nnn + b.setWidth 16 = BitVec.ofNat 16 (nnn.toNat + b.toNat) := by
  apply BitVec.eq_of_toNat_eq
  simp [zext16]

theorem State.top_eq_getD (h : s.sp.val ≠ 0) : s.top h = s.stack.toList.getD (s.sp.val - 1) 0 := by
  have hlt : s.sp.val - 1 < 16 := by omega
  simp [State.top, List.getD_eq_getElem?_getD, hlt]

theorem State.true_mem_keypad_iff : true ∈ s.keypad.toList ↔ ∃ k : Fin 16, s.keypad[k.val] = true := by
  simp [Vector.mem_iff_getElem, Fin.exists_iff]

/-- Each instruction leaves pc where the table of R25 says. -/
theorem State.afterInstr_pc (i : Instr) : (s.afterInstr i).pc = pcAfter i s := by
  cases i with
  | ret =>
    rw [State.afterInstr_ret]
    by_cases h : s.sp.val = 0
    · simp [h, pcAfter]
    · simp [h, pcAfter, s.top_eq_getD h]
  | call nnn =>
    rw [State.afterInstr_call]
    by_cases h : s.sp.val < 16
    · simp [h, h.ne, pcAfter, zext16]
    · have hfull : s.sp.val = 16 := by omega
      simp [hfull, pcAfter]
  | ldVxK x =>
    rw [State.afterInstr_ldVxK]
    obtain ⟨k, hk, hdown, -⟩ | ⟨hnone, hup⟩ := s.lowestKey_cases
    · have hmem : true ∈ s.keypad.toList := s.true_mem_keypad_iff.2 ⟨k, hdown⟩
      simp only [hk, Option.elim_some, State.advance_pc, State.writeV_pc, pcAfter, if_pos hmem]
    · have hmem : true ∉ s.keypad.toList := fun h => by
        obtain ⟨k, hdown⟩ := s.true_mem_keypad_iff.1 h
        simp [hup k] at hdown
      simp only [hnone, Option.elim_none, pcAfter, if_neg hmem]
  | jpV0 nnn => simpa [pcAfter] using zext16_add_setWidth nnn (s.readV 0)
  | skp x => simp [pcAfter, State.keyDown_eq]
  | sknp x =>
    simp only [State.afterInstr_sknp, State.skipIf_pc, State.checkKey_pc, State.keyDown_eq, pcAfter]
    cases s.keypad.toList.getD (s.readV x).toNat false <;> rfl
  | sneImm x nn => simp [pcAfter]
  | sneReg x y => simp [pcAfter]
  | _ => simp [pcAfter, zext16]

/-! ### The V registers an instruction leaves alone (R22) -/

/-- A register that the instruction neither names as its destination nor writes as the flag keeps its value. -/
theorem State.afterInstr_readV_of_not_mem (i : Instr) {r : RegIdx} (hr : r ∉ destRegs i)
    (hflag : r = vf → flagOf i s = none) : (s.afterInstr i).readV r = s.readV r := by
  cases i with
  | ret => rw [State.afterInstr_ret]; split <;> simp
  | call nnn => rw [State.afterInstr_call]; split <;> simp
  | ldVxK x =>
    rw [State.afterInstr_ldVxK]
    cases s.lowestKey with
    | none => rfl
    | some k =>
      have hne : r ≠ x := by simpa [destRegs] using hr
      simp [State.readV_writeV, hne]
  | addI x | drw x y n =>
    have hvf : r ≠ vf := by simpa [flagOf] using hflag
    simp [State.readV_writeFlag, hvf]
  | addReg x y | sub x y | shr x y | subn x y | shl x y =>
    have hne : r ≠ x := by simpa [destRegs] using hr
    have hvf : r ≠ vf := by simpa [flagOf] using hflag
    simp [State.readV_writeResult, hne, hvf]
  | ldRegs x => simp [State.loadRegs_readV, show r ∉ regsUpTo x from hr]
  | ldDtVx x | ldStVx x => rfl
  | ldImm x nn | addImm x nn | ldReg x y | orReg x y | andReg x y | xorReg x y | rnd x nn | ldVxDt x =>
    have hne : r ≠ x := by simpa [destRegs] using hr
    simp [State.readV_writeV, hne]
  | _ => simp

end Sys2Proof.Machine

namespace Sys2Proof.Proofs

open Sys2Proof.Machine Sys2Proof.Safety

/-- Settles O12: each item of the reset state is a constant, or an array of one. -/
theorem resetIsZeroExceptPc : Obligations.ResetIsZeroExceptPc := by
  have hv : ∀ r, State.reset.readV r = 0 := fun r => by simp [State.reset, State.readV]
  have hstack : ∀ k : Fin 16, State.reset.stack[k.val] = 0 := fun k => by simp [State.reset]
  have hkeypad : ∀ k : Fin 16, State.reset.keypad[k.val] = false := fun k => by simp [State.reset]
  exact ⟨fun _ => rfl, hv, rfl, rfl, hstack, rfl, rfl, rfl, rfl, Gfx.pixel_blank, rfl, hkeypad⟩

/-- Settles O15: the fetch changes the schedule, the phase and the outputs; the word is an instruction, which keeps to
its frame, or it is unknown and changes pc and the outputs. -/
theorem stepEventWritesOnlyWhatItMay : Obligations.StepEventWritesOnlyWhatItMay := by
  intro s t hnext hstep
  rw [step_of_stepsNext hnext, State.fetched_eq] at hstep
  cases hstep
  cases hd : decode s.fetchedWord with
  | ok i =>
    rw [State.afterWord_of_ok _ hd]
    simp only [ne_eq, Except.ok.injEq]
    have hframe := State.afterInstr_frame { s with
      schedule := s.schedule.tail
      phase := .running
      outputs := s.outputs ++ rangeReports s.pc [s.pc.toNat, s.pc.toNat + 1] } i
    exact ⟨hframe.keypad, hframe.drawFlag, hframe.dt, hframe.st, hframe.display, hframe.stack, hframe.sp,
      hframe.index⟩
  | error e =>
    rw [State.afterWord_of_error _ hd]
    exact ⟨rfl, id, fun _ => rfl, fun _ => rfl, fun _ _ => ⟨rfl, rfl⟩, fun _ => rfl, fun _ _ => rfl,
      fun _ _ _ => rfl⟩

/-- Settles O17: R25's table holds of the next state that every instruction has. -/
theorem programCounterAfterEachInstruction : Obligations.ProgramCounterAfterEachInstruction := by
  intro i s t hexec
  rw [exec_eq_next_iff] at hexec
  rw [hexec, State.afterInstr_pc]

/-- Settles O19: each write of a V register is to a named destination or, last, to VF as the flag. -/
theorem registersChangeOnlyAsNamed : Obligations.RegistersChangeOnlyAsNamed := by
  intro i s t hexec r hr hflag
  rw [exec_eq_next_iff] at hexec
  rw [hexec, State.afterInstr_readV_of_not_mem s i hr hflag]

end Sys2Proof.Proofs
end

section
/-! SUPPORT. The blit against its pointwise meaning (R142 to R145), and VF after each instruction that writes a flag
(R22). -/

namespace Sys2Proof.Machine

open Sys2Proof.Safety

/-! ### The blit (R142 to R145) -/

/-- `acc` is what drawing the pixels of `S` on `g` gives, each of them once: those pixels are toggled, the others kept,
and a collision is noted exactly when one of them was on in `g` (R145). -/
def Drawn (g : Gfx) (S : Col → Row → Prop) (acc : Gfx × Bool) : Prop :=
  (∀ px py, (S px py → acc.1.pixel px py = !g.pixel px py) ∧ (¬ S px py → acc.1.pixel px py = g.pixel px py)) ∧
    (acc.2 = true ↔ ∃ px py, S px py ∧ g.pixel px py = true)

theorem drawn_nothing (g : Gfx) : Drawn g (fun _ _ => False) (g, false) := by
  simp [Drawn]

theorem Drawn.congr {g : Gfx} {S S' : Col → Row → Prop} {acc : Gfx × Bool} (h : Drawn g S acc)
    (hS : ∀ px py, S px py ↔ S' px py) : Drawn g S' acc := by
  rwa [← funext₂ fun px py => propext (hS px py)]

/-- Toggling one more pixel, which has not been drawn on: it still has the value it has in `g`. -/
theorem Drawn.flip {g : Gfx} {S : Col → Row → Prop} {acc : Gfx × Bool} (h : Drawn g S acc) {qx : Col} {qy : Row}
    (hnew : ¬ S qx qy) :
    Drawn g (fun px py => S px py ∨ (px = qx ∧ py = qy)) (acc.1.flip qx qy, acc.2 || acc.1.pixel qx qy) := by
  obtain ⟨hpix, hcoll⟩ := h
  have hold : acc.1.pixel qx qy = g.pixel qx qy := (hpix qx qy).2 hnew
  refine ⟨fun px py => ?_, ?_⟩
  · rw [Gfx.pixel_flip]
    by_cases hq : px = qx ∧ py = qy
    · obtain ⟨rfl, rfl⟩ := hq
      simp [hold]
    · simpa [hq] using hpix px py
  · rw [Bool.or_eq_true, hcoll, hold]
    constructor
    · rintro (⟨px, py, hS, hon⟩ | hon)
      · exact ⟨px, py, .inl hS, hon⟩
      · exact ⟨qx, qy, .inr ⟨rfl, rfl⟩, hon⟩
    · rintro ⟨px, py, hS | ⟨rfl, rfl⟩, hon⟩
      · exact .inl ⟨px, py, hS, hon⟩
      · exact .inr hon

/-- The pixels of the first `m` columns of a sprite row at row offset `r` (R142, R144). -/
def RowCovers (xo yo r : Nat) (row : Byte) (m : Nat) (px : Col) (py : Row) : Prop :=
  ∃ c < m, spriteBit row c = true ∧ px = wrapX (xo + c) ∧ py = wrapY (yo + r)

theorem rowCovers_succ (xo yo r : Nat) (row : Byte) (m : Nat) (px : Col) (py : Row) :
    RowCovers xo yo r row (m + 1) px py ↔
      RowCovers xo yo r row m px py ∨ (spriteBit row m = true ∧ px = wrapX (xo + m) ∧ py = wrapY (yo + r)) := by
  simp only [RowCovers, Nat.lt_succ_iff_lt_or_eq, or_and_right, exists_or, exists_eq_left]

/-- Eight consecutive columns are distinct on a screen 64 wide. -/
theorem not_rowCovers_wrapX (xo yo r : Nat) (row : Byte) {m : Nat} (hm : m < 8) (py : Row) :
    ¬ RowCovers xo yo r row m (wrapX (xo + m)) py := by
  rintro ⟨c, hc, -, hx, -⟩
  have hmod : (xo + m) % 64 = (xo + c) % 64 := congrArg Fin.val hx
  omega

/-- The first `m` columns of a sprite row, on rows of the screen that nothing has been drawn on yet. -/
theorem Drawn.foldl_blitBit {g : Gfx} {S : Col → Row → Prop} {acc : Gfx × Bool} (h : Drawn g S acc)
    (xo yo r : Nat) (row : Byte) (hnew : ∀ px, ¬ S px (wrapY (yo + r))) {m : Nat} (hm : m ≤ 8) :
    Drawn g (fun px py => S px py ∨ RowCovers xo yo r row m px py)
      ((List.range m).foldl (blitBit xo yo r row) acc) := by
  induction m with
  | zero => exact h.congr fun px py => by simp [RowCovers]
  | succ m ih =>
    have ih := ih (by omega)
    rw [List.range_succ, List.foldl_append, List.foldl_cons, List.foldl_nil, blitBit]
    split
    · next hbit =>
      refine (ih.flip ?_).congr fun px py => ?_
      · rintro (hS | hrow)
        · exact hnew _ hS
        · exact not_rowCovers_wrapX xo yo r row (by omega) _ hrow
      · simp only [rowCovers_succ, hbit, true_and, or_assoc]
    · next hbit => exact ih.congr fun px py => by simp [rowCovers_succ, hbit]

theorem Drawn.blitRow {g : Gfx} {S : Col → Row → Prop} {acc : Gfx × Bool} (h : Drawn g S acc)
    (xo yo r : Nat) (row : Byte) (hnew : ∀ px, ¬ S px (wrapY (yo + r))) :
    Drawn g (fun px py => S px py ∨ RowCovers xo yo r row 8 px py) (blitRow xo yo r row acc) :=
  h.foldl_blitBit xo yo r row hnew le_rfl

/-- The pixels of sprite rows, the first at row offset `r` (R142). -/
def RowsCover (xo yo r : Nat) (rows : List Byte) (px : Col) (py : Row) : Prop :=
  ∃ k row, rows[k]? = some row ∧ RowCovers xo yo (r + k) row 8 px py

theorem rowsCover_cons (xo yo r : Nat) (row : Byte) (rows : List Byte) (px : Col) (py : Row) :
    RowsCover xo yo r (row :: rows) px py ↔
      RowCovers xo yo r row 8 px py ∨ RowsCover xo yo (r + 1) rows px py := by
  constructor
  · rintro ⟨_ | k, row', hk, hrow⟩
    · obtain rfl : row = row' := by simpa using hk
      exact .inl hrow
    · exact .inr ⟨k, row', by simpa using hk, by rwa [Nat.add_assoc, Nat.add_comm 1 k]⟩
  · rintro (hrow | ⟨k, row', hk, hrow⟩)
    · exact ⟨0, row, rfl, hrow⟩
    · exact ⟨k + 1, row', by simpa using hk, by rwa [← Nat.add_assoc, Nat.add_right_comm]⟩

/-- A run of at most 32 sprite rows, on rows of the screen that nothing has been drawn on yet: they are distinct on a
screen 32 high. -/
theorem Drawn.blitRows {g : Gfx} {S : Col → Row → Prop} {acc : Gfx × Bool} (h : Drawn g S acc) (xo yo r : Nat)
    (rows : List Byte) (hlen : rows.length ≤ 32) (hnew : ∀ k < rows.length, ∀ px, ¬ S px (wrapY (yo + (r + k)))) :
    Drawn g (fun px py => S px py ∨ RowsCover xo yo r rows px py) (blitRows xo yo r rows acc) := by
  induction rows generalizing r acc S with
  | nil => exact h.congr fun px py => by simp [RowsCover]
  | cons row rows ih =>
    rw [List.length_cons] at hlen hnew
    have hrow := h.blitRow xo yo r row (hnew 0 (by omega))
    refine (ih hrow (r + 1) (by omega) fun k hk px => ?_).congr fun px py => ?_
    · rintro (hS | ⟨c, -, -, -, hy⟩)
      · exact hnew (k + 1) (by omega) px (by rwa [show r + (k + 1) = r + 1 + k by omega])
      · have hmod : (yo + (r + 1 + k)) % 32 = (yo + r) % 32 := congrArg Fin.val hy
        omega
    · rw [rowsCover_cons, or_assoc]

theorem spriteBit_eq_true_iff (row : Byte) (c : Nat) : spriteBit row c = true ↔ row.toNat / 2 ^ (7 - c) % 2 = 1 := by
  rw [spriteBit, BitVec.getLsbD, Nat.testBit_eq_decide_div_mod_eq, decide_eq_true_eq]

theorem rowsCover_zero_iff (xo yo : Nat) (rows : List Byte) (px : Col) (py : Row) :
    RowsCover xo yo 0 rows px py ↔ SpriteCovers xo yo rows px py := by
  simp only [RowsCover, RowCovers, SpriteCovers, spriteBit_eq_true_iff, Fin.ext_iff, wrapX, wrapY, Nat.zero_add]
  constructor
  · rintro ⟨k, row, hk, c, hc, hbit, hx, hy⟩
    exact ⟨k, c, row, hc, hk, hbit, hx, hy⟩
  · rintro ⟨k, c, row, hc, hk, hbit, hx, hy⟩
    exact ⟨k, row, hk, c, hc, hbit, hx, hy⟩

/-- The blit of at most 32 rows draws the pixels the sprite covers, each of them once. -/
theorem drawn_blit (g : Gfx) (xo yo : Byte) (rows : List Byte) (hlen : rows.length ≤ 32) :
    Drawn g (SpriteCovers xo.toNat yo.toNat rows) (g.blit xo yo rows) :=
  ((drawn_nothing g).blitRows xo.toNat yo.toNat 0 rows hlen (fun _ _ _ h => h)).congr fun px py => by
    rw [false_or, rowsCover_zero_iff]

/-! ### VF as a flag (R22) -/

theorem carryOut_eq_true_iff (a b : Byte) : carryOut a b = true ↔ a.toNat + b.toNat > 255 := decide_eq_true_iff

theorem noBorrow_eq_true_iff (a b : Byte) : noBorrow a b = true ↔ a.toNat ≥ b.toNat := decide_eq_true_iff

theorem indexOverflow_eq_true_iff (sum : Nat) : indexOverflow sum = true ↔ sum > 0xFFF := decide_eq_true_iff

theorem shiftedOutRight_eq_true_iff (a : Byte) : shiftedOutRight a = true ↔ a.toNat % 2 = 1 := by revert a; decide

theorem shiftedOutLeft_eq_true_iff (a : Byte) : shiftedOutLeft a = true ↔ a.toNat / 128 = 1 := by revert a; decide

variable (s : State)

/-- The collision flag of DRW, with its rows read at I (R141, R145). -/
theorem State.drw_collision_iff (x y : RegIdx) (n : Fin 16) :
    (s.gfx.blit (s.readV x) (s.readV y) (s.spriteRows n.val)).2 = true ↔
      ∃ px py, SpriteCovers (s.readV x).toNat (s.readV y).toNat ((addrRun s.i.toNat n.val).map s.peek) px py ∧
        s.gfx.pixel px py = true := by
  have hlen : (s.spriteRows n.val).length ≤ 32 := by
    simp only [State.spriteRows, State.addrs, List.length_map, List.length_range]
    omega
  exact (drawn_blit s.gfx (s.readV x) (s.readV y) _ hlen).2

/-- An instruction with a row in the table of R22 leaves in VF the byte of a flag that says whether the condition of
its row held before it. -/
theorem State.afterInstr_flag (i : Instr) {p : Prop} (hp : flagOf i s = some p) :
    ∃ f, (s.afterInstr i).readV vf = flagByte f ∧ (f = true ↔ p) := by
  cases i with
  | addReg x y =>
    cases hp
    exact ⟨_, by simp [State.readV_writeResult], carryOut_eq_true_iff _ _⟩
  | sub x y | subn x y =>
    cases hp
    exact ⟨_, by simp [State.readV_writeResult], noBorrow_eq_true_iff _ _⟩
  | shr x y =>
    cases hp
    exact ⟨_, by simp [State.readV_writeResult], shiftedOutRight_eq_true_iff _⟩
  | shl x y =>
    cases hp
    exact ⟨_, by simp [State.readV_writeResult], shiftedOutLeft_eq_true_iff _⟩
  | drw x y n =>
    cases hp
    exact ⟨_, by simp [State.readV_writeFlag], s.drw_collision_iff x y n⟩
  | addI x =>
    cases hp
    exact ⟨_, by simp [State.readV_writeFlag, State.addr], indexOverflow_eq_true_iff _⟩
  | _ => cases hp

end Sys2Proof.Machine

namespace Sys2Proof.Proofs

open Sys2Proof.Machine Sys2Proof.Safety

/-- Settles O18: the flag writers by `State.afterInstr_flag`; the others do not touch VF, as no other register that
they do not name. -/
theorem flagRegisterAfterEachInstruction : Obligations.FlagRegisterAfterEachInstruction := by
  refine ⟨fun i s t hexec => ?_, by decide⟩
  rw [exec_eq_next_iff] at hexec
  subst hexec
  refine ⟨fun p hp => ?_, fun hnone hdest => s.afterInstr_readV_of_not_mem i hdest fun _ => hnone⟩
  obtain ⟨f, hvf, hf⟩ := s.afterInstr_flag i hp
  rw [hvf, ← hf]
  cases f <;> simp [flagByte]

end Sys2Proof.Proofs
end

section
/-! SUPPORT. That decoding undoes encoding (R73, R75), and putting a word at pc for the next fetch (R55, R71), and
which bytes an instruction stores to (R57). -/

namespace Sys2Proof

/-- Decoding undoes encoding: the family nibble comes back, then the sub-selector of its family (none, a low nibble, a
low byte), then the operand fields. -/
theorem decodeIn_encode {keyWait : Bool} {i : Instr} (h : i.wellFormedIn keyWait = true) :
    decodeIn keyWait (encode i) = .ok i := by
  cases i with
  | cls | ret => rfl
  | jp | call | ldI | jpV0 => simp [encode, decodeIn]
  | seImm | sneImm | ldImm | addImm | rnd => simp [encode, decodeIn]
  | seReg | sneReg | drw => simp [encode, decodeIn]
  | ldReg | orReg | andReg | xorReg | addReg | sub | shr | subn | shl => simp [encode, decodeIn, decodeFamily8]
  | skp | sknp => simp [encode, decodeIn, decodeFamilyE]
  | ldVxK x =>
    have hkey : keyWait = true := h
    simp [encode, decodeIn, decodeFamilyF, hkey]
  | ldVxDt | ldDtVx | ldStVx | addI | ldF | ldB | stRegs | ldRegs => simp [encode, decodeIn, decodeFamilyF]

theorem decode_encode {i : Instr} (h : i.WellFormed) : decode (encode i) = .ok i := decodeIn_encode h

theorem wordOfBytes_highByte_lowByte (w : Word) : wordOfBytes (highByte w) (lowByte w) = w :=
  (BitVec.extractLsb'_append_extractLsb'_eq_extractLsb' rfl).trans BitVec.extractLsb'_eq_self

theorem tableWord_toNat (w : Word) : tableWord 16 w.toNat = w := by
  rw [tableWord, Nat.mod_eq_of_lt w.isLt, BitVec.ofNat_toNat, BitVec.setWidth_eq]

end Sys2Proof

namespace Sys2Proof.Machine

open Sys2Proof.Safety

variable (s : State) (w : Word)

/-- A `Step` on a word that is an instruction is that instruction on the state the fetch leaves (R81). -/
theorem step_eq_exec_fetched {s : State} {i : Instr} (h : StepsNext s) (hd : decode s.fetchedWord = .ok i) :
    step s = exec i s.fetched := by
  rw [step_of_stepsNext h, State.afterWord_of_ok _ hd, exec_eq]

/-! ### A word placed at pc -/

theorem State.withFetchWord_toNat : s.withFetchWord 16 w.toNat = s.placeWord w := by
  rw [State.withFetchWord, tableWord_toNat]

theorem State.peek_placeWord (c : Nat) :
    (s.placeWord w).peek c =
      if c % 4096 = (s.pc.toNat + 1) % 4096 then lowByte w
      else if c % 4096 = s.pc.toNat % 4096 then highByte w else s.peek c := by
  change ((s.poke s.pc.toNat (highByte w)).poke (s.pc.toNat + 1) (lowByte w)).peek c = _
  rw [State.peek_poke, State.peek_poke]

/-- The two bytes do not meet: pc and pc + 1 differ mod 4096. -/
theorem State.fetchedWord_placeWord : (s.placeWord w).fetchedWord = w := by
  have hne : s.pc.toNat % 4096 ≠ (s.pc.toNat + 1) % 4096 := by omega
  change wordOfBytes ((s.placeWord w).peek s.pc.toNat) ((s.placeWord w).peek (s.pc.toNat + 1)) = w
  rw [State.peek_placeWord, State.peek_placeWord, if_neg hne, if_pos rfl, if_pos rfl, wordOfBytes_highByte_lowByte]

theorem State.placeWord_sameMemoryExcept :
    SameMemoryExcept [s.pc.toNat, s.pc.toNat + 1] s (s.placeWord w) := by
  intro c hc
  rw [State.peek_placeWord, if_neg (hc _ (by simp)), if_neg (hc _ (by simp))]

theorem State.placeWord_phase :
    (s.placeWord w).phase = if s.phase = .loadFailed then .fresh else s.phase := rfl

theorem State.placeWord_stepsNext : StepsNext (s.placeWord w) := by
  refine ⟨.inl rfl, ?_⟩
  rw [State.placeWord_phase]
  split
  · exact Phase.noConfusion
  · assumption

/-- The fetch of a placed word: its schedule is empty already, and its pc and outputs are those of `s`. -/
theorem State.fetched_placeWord :
    (s.placeWord w).fetched = { s.placeWord w with
      phase := .running, outputs := s.outputs ++ rangeReports s.pc [s.pc.toNat, s.pc.toNat + 1] } :=
  State.fetched_eq _

/-! ### Which bytes an instruction stores to (R57) -/

theorem sameMemory_of_mem_eq {s t : State} (h : t.mem = s.mem) : SameMemory s t := by
  intro c
  rw [State.peek, h, State.peek]

theorem State.memWrite_sameMemoryExcept (a : Nat) (b : Byte) : SameMemoryExcept [a] s (s.memWrite a b) := by
  intro c hc
  rw [State.peek_memWrite, if_neg (hc a (by simp))]

theorem State.memWriteList_sameMemoryExcept (a : Nat) (bs : List Byte) :
    SameMemoryExcept (addrRun a bs.length) s (s.memWriteList a bs) := by
  induction bs generalizing a s with
  | nil => exact fun _ _ => rfl
  | cons b bs ih =>
    intro c hc
    rw [List.length_cons, addrRun_succ] at hc
    calc ((s.memWrite a b).memWriteList (a + 1) bs).peek c
      _ = (s.memWrite a b).peek c := ih _ _ c fun d hd => hc d (List.mem_cons_of_mem _ hd)
      _ = s.peek c := s.memWrite_sameMemoryExcept a b c (by simpa using hc a List.mem_cons_self)

/-- The two stores are runs of byte writes at I; the frame of every other instruction keeps memory. -/
theorem State.afterInstr_sameMemoryExcept (i : Instr) :
    SameMemoryExcept (storedAddrs i s) s (s.afterInstr i) := by
  cases i with
  | ldB x => exact s.memWriteList_sameMemoryExcept s.i.toNat (decimalDigits (s.readV x))
  | stRegs x =>
    have hrun := s.memWriteList_sameMemoryExcept s.i.toNat ((regsUpTo x).map s.readV)
    rwa [List.length_map, regsUpTo_length] at hrun
  | _ => exact fun c _ => sameMemory_of_mem_eq ((s.afterInstr_frame _).memory (by simp) (by simp)) c

end Sys2Proof.Machine

namespace Sys2Proof.Proofs

open Sys2Proof.Machine Sys2Proof.Safety

/-- Settles O11: the fetch reads the placed word, and decoding undoes encoding, so the `Step` runs the instruction. -/
theorem placedInstructionRunsNext : Obligations.PlacedInstructionRunsNext := by
  intro s i hwf
  have hword := s.fetchedWord_placeWord (encode i)
  have hdecode : decode (s.placeWord (encode i)).fetchedWord = .ok i := by rw [hword, decode_encode hwf]
  have hnext := s.placeWord_stepsNext (encode i)
  have hstep := step_eq_exec_fetched hnext hdecode
  rw [State.fetched_placeWord] at hstep
  exact ⟨_, s.withFetchWord_toNat _, hword, hdecode, hnext, hstep, s.placeWord_sameMemoryExcept _, rfl,
    fun h => if_neg h, fun h => if_pos h, rfl⟩

/-- Settles O16: an instruction stores to no byte that R57 does not list. -/
theorem onlyTheTwoStoresWriteMemory : Obligations.OnlyTheTwoStoresWriteMemory := by
  intro i s t hexec
  rw [exec_eq_next_iff] at hexec
  exact hexec ▸ s.afterInstr_sameMemoryExcept i

/-- Settles O45: a read masks by definition, `State.checkAddr` makes the one report, and a write is that report and a
change of memory at one address. -/
theorem memoryPrimitivesMaskAndReport : Obligations.MemoryPrimitivesMaskAndReport := by
  intro s a b
  have hreport : s.checkAddr a = { s with
      outputs := s.outputs ++ (if a > 0xFFF then [.report ⟨.addrOutOfRange, s.pc, a⟩] else []) } := by
    by_cases h : a > 0xFFF <;> simp [State.checkAddr_eq, rangeReports, h]
  have hread : (s.memWrite a b).peek a = b := by rw [State.peek_memWrite, if_pos rfl]
  have hrest : { s.memWrite a b with mem := s.mem } = s.checkAddr a := by
    rw [State.memWrite, State.checkAddr_eq]
    rfl
  exact ⟨rfl, hreport, hread, s.memWrite_sameMemoryExcept a b, hrest⟩

end Sys2Proof.Proofs
end

section
/-! SUPPORT. The words of a row of the opcode table are those its instructions encode to (R72 to R76): a word meets the
mask and match of a row if and only if it is made of the row's constants and its own fields. -/

namespace Sys2Proof

/-! ### A word with the constants of a row is made of its own fields -/

section Rows

variable {f : BitVec 4} {n : Fin 16} {nn : Byte} {w : Word}

theorem wordNNN_eq_iff : wordNNN f (fieldNNN w) = w ↔ fieldFamily w = f := by
  refine ⟨fun h => h ▸ fieldFamily_wordNNN f _, ?_⟩
  rintro rfl
  exact word_eq_NNN w

theorem wordXNN_eq_iff : wordXNN f (fieldX w) (fieldNN w) = w ↔ fieldFamily w = f := by
  refine ⟨fun h => h ▸ fieldFamily_wordXNN f _ _, ?_⟩
  rintro rfl
  exact word_eq_XNN w

theorem wordXYN_eq_iff : wordXYN f (fieldX w) (fieldY w) (fieldN w) = w ↔ fieldFamily w = f := by
  refine ⟨fun h => h ▸ fieldFamily_wordXYN f _ _ _, ?_⟩
  rintro rfl
  exact word_eq_XYN w

theorem wordXFF_eq_iff : wordXNN f (fieldX w) nn = w ↔ fieldFamily w = f ∧ fieldNN w = nn := by
  refine ⟨fun h => h ▸ ⟨fieldFamily_wordXNN f _ _, fieldNN_wordXNN f _ _⟩, ?_⟩
  rintro ⟨rfl, rfl⟩
  exact word_eq_XNN w

theorem wordXYF_eq_iff : wordXYN f (fieldX w) (fieldY w) n = w ↔ fieldFamily w = f ∧ fieldN w = n := by
  refine ⟨fun h => h ▸ ⟨fieldFamily_wordXYN f _ _ _, fieldN_wordXYN f _ _ _⟩, ?_⟩
  rintro ⟨rfl, rfl⟩
  exact word_eq_XYN w

/-! The three masks of R76, with the match as the table prints it. -/

theorem and_F000_iff {p : Word} (hp : p = f ++ 0#12) : w &&& 0xF000#16 = p ↔ fieldFamily w = f :=
  hp ▸ and_F000_eq_iff f w

theorem and_F00F_iff {p : Word} (hp : p = wordXYN f 0 0 n) :
    w &&& 0xF00F#16 = p ↔ fieldFamily w = f ∧ fieldN w = n :=
  hp ▸ and_F00F_eq_iff f n w

theorem and_F0FF_iff {p : Word} (hp : p = wordXNN f 0 nn) :
    w &&& 0xF0FF#16 = p ↔ fieldFamily w = f ∧ fieldNN w = nn :=
  hp ▸ and_F0FF_eq_iff f nn w

end Rows

/-! ### Match and mask (R75) -/

/-- The instruction of the same row as `i` whose operands are the fields R72 cuts from `w`. -/
def Instr.withFieldsOf (i : Instr) (w : Word) : Instr :=
  match i with
  | .cls => .cls
  | .ret => .ret
  | .jp _ => .jp (fieldNNN w)
  | .call _ => .call (fieldNNN w)
  | .seImm _ _ => .seImm (fieldX w) (fieldNN w)
  | .sneImm _ _ => .sneImm (fieldX w) (fieldNN w)
  | .seReg _ _ => .seReg (fieldX w) (fieldY w)
  | .ldImm _ _ => .ldImm (fieldX w) (fieldNN w)
  | .addImm _ _ => .addImm (fieldX w) (fieldNN w)
  | .ldReg _ _ => .ldReg (fieldX w) (fieldY w)
  | .orReg _ _ => .orReg (fieldX w) (fieldY w)
  | .andReg _ _ => .andReg (fieldX w) (fieldY w)
  | .xorReg _ _ => .xorReg (fieldX w) (fieldY w)
  | .addReg _ _ => .addReg (fieldX w) (fieldY w)
  | .sub _ _ => .sub (fieldX w) (fieldY w)
  | .shr _ _ => .shr (fieldX w) (fieldY w)
  | .subn _ _ => .subn (fieldX w) (fieldY w)
  | .shl _ _ => .shl (fieldX w) (fieldY w)
  | .sneReg _ _ => .sneReg (fieldX w) (fieldY w)
  | .ldI _ => .ldI (fieldNNN w)
  | .jpV0 _ => .jpV0 (fieldNNN w)
  | .rnd _ _ => .rnd (fieldX w) (fieldNN w)
  | .drw _ _ _ => .drw (fieldX w) (fieldY w) (fieldN w)
  | .skp _ => .skp (fieldX w)
  | .sknp _ => .sknp (fieldX w)
  | .ldVxDt _ => .ldVxDt (fieldX w)
  | .ldVxK _ => .ldVxK (fieldX w)
  | .ldDtVx _ => .ldDtVx (fieldX w)
  | .ldStVx _ => .ldStVx (fieldX w)
  | .addI _ => .addI (fieldX w)
  | .ldF _ => .ldF (fieldX w)
  | .ldB _ => .ldB (fieldX w)
  | .stRegs _ => .stRegs (fieldX w)
  | .ldRegs _ => .ldRegs (fieldX w)

theorem rowOf_withFieldsOf (i : Instr) (w : Word) : rowOf (i.withFieldsOf w) = rowOf i := by cases i <;> rfl

/-- The fields of the word of `i` are the operands of `i`. -/
theorem withFieldsOf_encode (i : Instr) : i.withFieldsOf (encode i) = i := by
  cases i <;> simp [Instr.withFieldsOf, encode]

theorem and_FFFF_eq_iff (w p : Word) : w &&& 0xFFFF#16 = p ↔ p = w := by
  rw [show (0xFFFF#16 : Word) = BitVec.allOnes 16 from rfl, BitVec.and_allOnes, eq_comm]

/-- A word meets the mask and match of the row of `i` if and only if it is the word of that row's instruction with the
word's own fields: one case a mask and a format of operands (R73, R76). -/
theorem and_mask_eq_pattern_iff (i : Instr) (w : Word) :
    w &&& (rowOf i).mask = (rowOf i).pattern ↔ encode (i.withFieldsOf w) = w := by
  cases i with
  | cls | ret => exact and_FFFF_eq_iff w _
  | jp | call | ldI | jpV0 => exact (and_F000_iff (by rfl)).trans wordNNN_eq_iff.symm
  | seImm | sneImm | ldImm | addImm | rnd => exact (and_F000_iff (by rfl)).trans wordXNN_eq_iff.symm
  | drw => exact (and_F000_iff (by rfl)).trans wordXYN_eq_iff.symm
  | seReg | sneReg | ldReg | orReg | andReg | xorReg | addReg | sub | shr | subn | shl =>
    exact (and_F00F_iff (by rfl)).trans wordXYF_eq_iff.symm
  | skp | sknp | ldVxDt | ldVxK | ldDtVx | ldStVx | addI | ldF | ldB | stRegs | ldRegs =>
    exact (and_F0FF_iff (by rfl)).trans wordXFF_eq_iff.symm

theorem exists_rowOf_eq {r : OpcodeRow} (hr : r ∈ opcodeTable) : ∃ i, rowOf i = r := by
  revert r
  simp [opcodeTable]

end Sys2Proof
end

section
/-! SUPPORT. What the decoder answers to every word: the instruction the word encodes, or the rejection under whose name
R77 lists it; the rows of the table read through it (R75), and a `Step` on an unknown word (R78). -/

namespace Sys2Proof

open Sys2Proof.Machine Sys2Proof.Safety

/-! ### What the decoder answers (R75, R77) -/

/-- The low bytes of the F family's rows, 0A only where the key wait is implemented (R76, D12). -/
def lowBytesF (keyWait : Bool) : List Byte :=
  if keyWait then [0x07, 0x0A, 0x15, 0x18, 0x1E, 0x29, 0x33, 0x55, 0x65]
  else [0x07, 0x15, 0x18, 0x1E, 0x29, 0x33, 0x55, 0x65]

/-- R77: the words the table lists under the name of each rejection. -/
def UnknownAs (keyWait : Bool) (w : Word) : DecodeReject → Prop
  | .family0 => fieldFamily w = 0x0 ∧ w ≠ 0x00E0 ∧ w ≠ 0x00EE
  | .family5 => fieldFamily w = 0x5 ∧ fieldN w ≠ 0
  | .family8 => fieldFamily w = 0x8 ∧ fieldN w ∈ [8, 9, 0xA, 0xB, 0xC, 0xD, 0xF]
  | .family9 => fieldFamily w = 0x9 ∧ fieldN w ≠ 0
  | .familyE => fieldFamily w = 0xE ∧ fieldNN w ∉ [0x9E, 0xA1]
  | .familyF => fieldFamily w = 0xF ∧ fieldNN w ∉ lowBytesF keyWait

/-- An answer of the decoder is right for `w`: the instruction's word is `w`, or R77 lists `w` under the rejection's
name. -/
def Answers (keyWait : Bool) (w : Word) : Except DecodeReject Instr → Prop
  | .ok i => encode i = w
  | .error e => UnknownAs keyWait w e

variable {keyWait : Bool} {w : Word}

theorem decodeFamily0_answers (hf : fieldFamily w = 0x0) : Answers keyWait w (decodeFamily0 w) := by
  unfold decodeFamily0
  split
  case isTrue hcls => exact hcls.symm
  case isFalse hcls =>
    split
    case isTrue hret => exact hret.symm
    case isFalse hret => exact ⟨hf, hcls, hret⟩

theorem decodeFamily8_answers (hf : fieldFamily w = 0x8) : Answers keyWait w (decodeFamily8 w) := by
  unfold decodeFamily8
  split
  case h_10 =>
    refine ⟨hf, ?_⟩
    generalize fieldN w = n at *
    revert n
    decide
  all_goals
    next hn => exact wordXYF_eq_iff.2 ⟨hf, Fin.ext hn⟩

theorem decodeFamilyE_answers (hf : fieldFamily w = 0xE) : Answers keyWait w (decodeFamilyE w) := by
  unfold decodeFamilyE
  split
  case h_3 h9E hA1 => exact ⟨hf, by simpa [← BitVec.toNat_inj] using ⟨h9E, hA1⟩⟩
  all_goals
    next hnn => exact wordXFF_eq_iff.2 ⟨hf, BitVec.eq_of_toNat_eq hnn⟩

theorem decodeFamilyF_answers (hf : fieldFamily w = 0xF) : Answers keyWait w (decodeFamilyF keyWait w) := by
  unfold decodeFamilyF
  split
  case h_10 =>
    refine ⟨hf, ?_⟩
    cases keyWait <;> simp_all [lowBytesF, ← BitVec.toNat_inj]
  case h_2 hnn =>
    have hnn : fieldNN w = 0x0A := BitVec.eq_of_toNat_eq hnn
    cases keyWait with
    | true => exact wordXFF_eq_iff.2 ⟨hf, hnn⟩
    | false => exact ⟨hf, by simp [hnn, lowBytesF]⟩
  all_goals
    next hnn => exact wordXFF_eq_iff.2 ⟨hf, BitVec.eq_of_toNat_eq hnn⟩

/-- The decoder answers every word rightly: one case a family (R75). -/
theorem decodeIn_answers (keyWait : Bool) (w : Word) : Answers keyWait w (decodeIn keyWait w) := by
  unfold decodeIn
  split
  case h_1 hf => exact decodeFamily0_answers (BitVec.eq_of_toNat_eq hf)
  case h_2 hf | h_3 hf | h_11 hf | h_12 hf => exact wordNNN_eq_iff.2 (BitVec.eq_of_toNat_eq hf)
  case h_4 hf | h_5 hf | h_7 hf | h_8 hf | h_13 hf => exact wordXNN_eq_iff.2 (BitVec.eq_of_toNat_eq hf)
  case h_6 hf | h_10 hf =>
    split
    case isTrue hn => exact wordXYF_eq_iff.2 ⟨BitVec.eq_of_toNat_eq hf, Fin.ext hn⟩
    case isFalse hn => exact ⟨BitVec.eq_of_toNat_eq hf, fun h => hn (congrArg Fin.val h)⟩
  case h_9 hf => exact decodeFamily8_answers (BitVec.eq_of_toNat_eq hf)
  case h_14 hf => exact wordXYN_eq_iff.2 (BitVec.eq_of_toNat_eq hf)
  case h_15 hf => exact decodeFamilyE_answers (BitVec.eq_of_toNat_eq hf)
  case h_16 =>
    have hlt := (fieldFamily w).isLt
    have hf : (fieldFamily w).toNat = 15 := by
      simp only [imp_false] at *
      omega
    exact decodeFamilyF_answers (BitVec.eq_of_toNat_eq hf)

theorem encode_of_decodeIn {i : Instr} (h : decodeIn keyWait w = .ok i) : encode i = w := by
  simpa [h, Answers] using decodeIn_answers keyWait w

theorem unknownAs_of_decodeIn {e : DecodeReject} (h : decodeIn keyWait w = .error e) : UnknownAs keyWait w e := by
  simpa [h, Answers] using decodeIn_answers keyWait w

/-- Only the key wait is an instruction at one setting of the switch and not at the other. -/
theorem wellFormedIn_of_decodeIn {i : Instr} (h : decodeIn keyWait w = .ok i) : i.wellFormedIn keyWait = true := by
  obtain rfl := encode_of_decodeIn h
  cases i with
  | ldVxK x =>
    cases keyWait with
    | true => rfl
    | false => simp [encode, decodeIn, decodeFamilyF] at h
  | _ => rfl

theorem decodeIn_eq_ok_iff {i : Instr} :
    decodeIn keyWait w = .ok i ↔ encode i = w ∧ i.wellFormedIn keyWait = true := by
  refine ⟨fun h => ⟨encode_of_decodeIn h, wellFormedIn_of_decodeIn h⟩, ?_⟩
  rintro ⟨rfl, hwf⟩
  exact decodeIn_encode hwf

/-- The family leaves one function of the sub-selector, and each row that function tests for is one the word is not in. -/
theorem decodeIn_of_unknownAs {e : DecodeReject} (h : UnknownAs keyWait w e) : decodeIn keyWait w = .error e := by
  cases e with
  | family0 =>
    obtain ⟨hf, hcls, hret⟩ := h
    have hfam : decodeIn keyWait w = decodeFamily0 w := by simp [decodeIn, hf]
    rw [hfam, decodeFamily0, if_neg hcls, if_neg hret]
  | family5 | family9 =>
    obtain ⟨hf, hn⟩ := h
    simp [decodeIn, hf, hn]
  | family8 =>
    obtain ⟨hf, hn⟩ := h
    simp only [List.mem_cons, List.not_mem_nil, or_false] at hn
    obtain hn | hn | hn | hn | hn | hn | hn := hn <;> simp [decodeIn, decodeFamily8, hf, hn]
  | familyE =>
    obtain ⟨hf, hnn⟩ := h
    have hfam : decodeIn keyWait w = decodeFamilyE w := by simp [decodeIn, hf]
    rw [hfam]
    unfold decodeFamilyE
    split <;> simp_all [← BitVec.toNat_inj]
  | familyF =>
    obtain ⟨hf, hnn⟩ := h
    have hfam : decodeIn keyWait w = decodeFamilyF keyWait w := by simp [decodeIn, hf]
    rw [hfam]
    unfold decodeFamilyF
    cases keyWait <;> split <;> simp_all [lowBytesF, ← BitVec.toNat_inj]

theorem decodeIn_eq_error_iff {e : DecodeReject} : decodeIn keyWait w = .error e ↔ UnknownAs keyWait w e :=
  ⟨unknownAs_of_decodeIn, decodeIn_of_unknownAs⟩

/-! ### The rows of the opcode table (R75, R76) -/

theorem Instr.wellFormed (i : Instr) : i.WellFormed := by cases i <;> rfl

theorem decode_eq_ok_iff {i : Instr} : decode w = .ok i ↔ encode i = w :=
  ⟨encode_of_decodeIn, fun h => h ▸ decode_encode i.wellFormed⟩

/-- The words of the row of `i` are those that decode to the instruction of that row with the word's own fields. At a
constructor of `Instr` this is the `Encoding` clause of that instruction's statement. -/
theorem encoding_rowOf (i : Instr) : Encoding (rowOf i).pattern (rowOf i).mask i.withFieldsOf :=
  fun w => (and_mask_eq_pattern_iff i w).trans decode_eq_ok_iff.symm

theorem withFieldsOf_of_decode {i : Instr} (h : decode w = .ok i) : i.withFieldsOf w = i := by
  obtain rfl := decode_eq_ok_iff.1 h
  exact withFieldsOf_encode i

theorem and_mask_eq_pattern_of_decode {i : Instr} (h : decode w = .ok i) : w &&& (rowOf i).mask = (rowOf i).pattern :=
  (encoding_rowOf i w).2 (by rwa [withFieldsOf_of_decode h])

theorem and_mask_eq_pattern_iff_exists_decode {r : OpcodeRow} (hr : r ∈ opcodeTable) (w : Word) :
    w &&& r.mask = r.pattern ↔ ∃ i, decode w = .ok i ∧ rowOf i = r := by
  obtain ⟨i, rfl⟩ := exists_rowOf_eq hr
  constructor
  · intro h
    exact ⟨i.withFieldsOf w, (encoding_rowOf i w).1 h, rowOf_withFieldsOf i w⟩
  · rintro ⟨j, hj, hrow⟩
    exact hrow ▸ and_mask_eq_pattern_of_decode hj

/-- No word meets two rows: it decodes to an instruction of each. -/
theorem row_eq_of_and_mask_eq_pattern {r r' : OpcodeRow} (hr : r ∈ opcodeTable) (hr' : r' ∈ opcodeTable)
    (h : w &&& r.mask = r.pattern) (h' : w &&& r'.mask = r'.pattern) : r = r' := by
  obtain ⟨i, hi, rfl⟩ := (and_mask_eq_pattern_iff_exists_decode hr w).1 h
  obtain ⟨j, hj, rfl⟩ := (and_mask_eq_pattern_iff_exists_decode hr' w).1 h'
  rw [hi] at hj
  cases hj
  rfl

theorem meets_no_row_iff (w : Word) :
    (∀ r ∈ opcodeTable, w &&& r.mask ≠ r.pattern) ↔ ∃ e, decode w = .error e := by
  cases hd : decode w with
  | ok i =>
    simp only [reduceCtorEq, exists_false, iff_false, not_forall, not_not]
    exact ⟨rowOf i, Laws.EncodesToRow.rowOf_mem i, and_mask_eq_pattern_of_decode hd⟩
  | error e =>
    refine iff_of_true (fun r hr h => ?_) ⟨e, rfl⟩
    obtain ⟨i, hi, -⟩ := (and_mask_eq_pattern_iff_exists_decode hr w).1 h
    simp [hd] at hi

/-- Only six families have unknown words (R77). -/
theorem fieldFamily_of_unknownAs {e : DecodeReject} (h : UnknownAs keyWait w e) :
    fieldFamily w ∈ [0x0#4, 0x5#4, 0x8#4, 0x9#4, 0xE#4, 0xF#4] := by
  cases e <;> simp [h.1]

theorem exists_decode_of_fieldFamily
    (h : fieldFamily w ∈ [0x1#4, 0x2#4, 0x3#4, 0x4#4, 0x6#4, 0x7#4, 0xA#4, 0xB#4, 0xC#4, 0xD#4]) :
    ∃ i, decode w = .ok i := by
  cases hd : decode w with
  | ok i => exact ⟨i, rfl⟩
  | error e =>
    exfalso
    have hunknown := fieldFamily_of_unknownAs (unknownAs_of_decodeIn hd)
    generalize fieldFamily w = f at *
    revert f
    decide

/-! ### The word of two bytes (R55, R71) -/

theorem wordOfBytes_toNat (hi lo : Byte) : (wordOfBytes hi lo).toNat = 256 * hi.toNat + lo.toNat := by
  have hshift : hi.toNat <<< 8 = 2 ^ 8 * hi.toNat := by rw [Nat.shiftLeft_eq, Nat.mul_comm]
  rw [wordOfBytes, BitVec.toNat_append, hshift, ← Nat.two_pow_add_eq_or_of_lt lo.isLt]

end Sys2Proof

namespace Sys2Proof.Machine

open Sys2Proof.Safety

/-- A `Step` on an unknown word: the fetch reports, then the word is reported, and pc is past it (R78). -/
theorem step_of_unknown_word {s : State} {e : DecodeReject} (h : StepsNext s) (hd : decode s.fetchedWord = .error e) :
    step s = .next (s.fetched.unknownWord s.fetchedWord) := by
  rw [step_of_stepsNext h, State.afterWord_of_error _ hd]

end Sys2Proof.Machine

namespace Sys2Proof.Proofs

open Sys2Proof.Machine Sys2Proof.Safety

/-- Settles O1, by `decodeIn_encode`: the family, the sub-selector and the operands come back from the word. -/
theorem decodeEncodeAgree : Obligations.DecodeEncodeAgree :=
  fun _ _ hwf => decodeIn_encode hwf

/-- Settles O2: each branch of the decoder takes its operands from the word and fixes the rest of it. -/
theorem encodeDecodeAgree : Obligations.EncodeDecodeAgree :=
  fun _ _ _ h => decodeIn_eq_ok_iff.1 h

/-- Settles O3: the words of a row are the words its instructions encode to, so a word that meets a row decodes to an
instruction of it, and to one only. -/
theorem decodeFollowsMatchAndMask : Obligations.DecodeFollowsMatchAndMask :=
  ⟨fun _ hr w => and_mask_eq_pattern_iff_exists_decode hr w,
    fun _ hr _ hr' _ h h' => row_eq_of_and_mask_eq_pattern hr hr' h h',
    meets_no_row_iff,
    fun _ h => exists_decode_of_fieldFamily h⟩

/-- Settles O4: `UnknownAs` is the table of R77, with the key wait implemented. -/
theorem unknownWordsByFamily : Obligations.UnknownWordsByFamily :=
  fun _ => ⟨decodeIn_eq_error_iff, decodeIn_eq_error_iff, decodeIn_eq_error_iff, decodeIn_eq_error_iff,
    decodeIn_eq_error_iff, decodeIn_eq_error_iff⟩

/-- Settles O8: the fetch reports come first, then the report of the word, at the pc that still holds (R166). -/
theorem unknownWordIsReportedAndSkipped : Obligations.UnknownWordIsReportedAndSkipped := by
  intro s e h hd
  rw [step_of_unknown_word h hd, State.fetched_eq]
  rfl

/-- Settles O5: the decoder run on each word; the values are the spec's own (log 6). -/
theorem sampleWordsDecode : Obligations.SampleWordsDecode :=
  ⟨rfl, rfl, rfl, rfl, rfl, rfl, rfl, rfl⟩

/-- Settles O6: the instruction runs on the state the fetch leaves. -/
theorem stepRunsDecodedInstruction : Obligations.StepRunsDecodedInstruction := by
  intro s i h hd
  rw [step_eq_exec_fetched h hd, State.fetched_eq]

/-- Settles O7: two byte reads, the first the high byte, and two address checks. -/
theorem fetchIsBigEndianAndMasked : Obligations.FetchIsBigEndianAndMasked :=
  fun s => ⟨wordOfBytes_toNat _ _, s.checkAddrs_eq _⟩

end Sys2Proof.Proofs
end

section
/-! SUPPORT. Control transfer (40_flow.md): jumps and skips change pc only, and CALL and RET only pc, the return stack
and, at its limits, the outputs (R100 to R108). -/

namespace Sys2Proof.Machine

open Sys2Proof.Safety

variable (s : State)

/-! ### Jumps and skips -/

theorem State.jumpTo_sameButPc (p : Word) : SameButPc s (s.jumpTo p) :=
  ⟨fun _ _ => rfl, rfl, fun _ => rfl, ⟨rfl, rfl⟩, ⟨rfl, rfl⟩, ⟨rfl, rfl⟩, ⟨rfl, rfl, rfl⟩, rfl⟩

theorem State.jumpTo_pc_self : s.jumpTo s.pc = s := rfl

@[simp] theorem zext16_toNat (nnn : BitVec 12) : (zext16 nnn).toNat = nnn.toNat :=
  BitVec.toNat_setWidth_of_le (by decide)

/-- An address of 12 bits and a byte add up below 2^16: 0x10FE at most (R107). -/
theorem zext16_add_setWidth_toNat (nnn : BitVec 12) (b : Byte) :
    (zext16 nnn + b.setWidth 16).toNat = nnn.toNat + b.toNat := by
  have hnnn := nnn.isLt
  have hb := b.isLt
  rw [zext16_add_setWidth, BitVec.toNat_ofNat]
  omega

/-- An instruction that ends in `skipIf` skips by the pattern of R108, on the condition its Boolean computes. -/
theorem skips_of_afterInstr {s : State} {i : Instr} {c : Bool} {cond : Prop} (hi : s.afterInstr i = s.skipIf c)
    (hc : c = true ↔ cond) : Skips i cond s := by
  refine ⟨s.skipIf c, by rw [exec_eq, hi], fun h => ?_, fun h => ?_, s.jumpTo_sameButPc _, rfl⟩
  · rw [State.skipIf_pc, if_pos (hc.2 h)]
  · rw [State.skipIf_pc, if_neg (mt hc.1 h)]

theorem byte_beq_iff (a b : Byte) : (a == b) = true ↔ a.toNat = b.toNat := by
  rw [beq_iff_eq, BitVec.toNat_inj]

theorem byte_bne_iff (a b : Byte) : (a != b) = true ↔ a.toNat ≠ b.toNat := by
  rw [bne_iff_ne, Ne, Ne, BitVec.toNat_inj]

/-! ### CALL and RET on the two sides of the stack's limits (R29, R100, R102) -/

section Limits

variable {s}

theorem State.afterInstr_ret_of_empty (h : s.sp.val = 0) :
    s.afterInstr .ret = (s.report .stackUnderflow 0).advance := dif_pos h

theorem State.afterInstr_ret_of_not_empty (h : s.sp.val ≠ 0) :
    s.afterInstr .ret = ((s.pop h).jumpTo (s.top h)).advance := dif_neg h

theorem State.afterInstr_call_of_full (nnn : BitVec 12) (h : s.sp.val = 16) :
    s.afterInstr (.call nnn) = (s.report .stackOverflow 0).advance := dif_neg h.not_lt

theorem State.afterInstr_call_of_not_full (nnn : BitVec 12) (h : s.sp.val < 16) :
    s.afterInstr (.call nnn) = (s.push s.pc h).jumpTo (zext16 nnn) := dif_pos h

end Limits

/-- All but pc, the return stack and the outputs is as before. -/
def SameOutsideCalls (s t : State) : Prop :=
  SameRegsExcept [] s t ∧ t.i = s.i ∧ SameMemory s t ∧ SameTimers s t ∧ SameDisplay s t ∧ SameHost s t ∧
    t.draws = s.draws

/-- The access table gives CALL and RET no more than pc and the return stack (R39), on either side of the limits. -/
theorem State.afterInstr_sameOutsideCalls {i : Instr} (hi : i = .ret ∨ ∃ nnn, i = .call nnn) :
    SameOutsideCalls s (s.afterInstr i) := by
  have hframe := s.afterInstr_frame i
  have hnoRegs : destRegs i = [] ∧ flagOf i s = none := by
    obtain rfl | ⟨nnn, rfl⟩ := hi <;> exact ⟨rfl, rfl⟩
  obtain ⟨hdest, hflag⟩ := hnoRegs
  have hregs : SameRegsExcept [] s (s.afterInstr i) := fun r hr =>
    s.afterInstr_readV_of_not_mem i (hdest ▸ hr) fun _ => hflag
  have hhost : SameHost s (s.afterInstr i) := ⟨hframe.keypad, hframe.schedule, hframe.phase⟩
  obtain rfl | ⟨nnn, rfl⟩ := hi <;>
    exact ⟨hregs, hframe.index (by simp) (by simp) (by simp),
      sameMemory_of_mem_eq (hframe.memory (by simp) (by simp)), ⟨hframe.dt (by simp), hframe.st (by simp)⟩,
      hframe.display (by simp) (by simp), hhost, hframe.draws (by simp)⟩

end Sys2Proof.Machine

namespace Sys2Proof.Proofs

open Sys2Proof.Machine Sys2Proof.Safety

/-- Settles O24, by the case of an empty stack and the case of an entry to pop. -/
theorem retReturnsOrReports : Obligations.RetReturnsOrReports := by
  refine ⟨encoding_rowOf .ret, fun s => ⟨_, exec_eq .ret s, fun h => ?_, fun h => ?_,
    (s.afterInstr_frame .ret).stack (by simp), s.afterInstr_sameOutsideCalls (.inl rfl)⟩⟩
  · rw [State.afterInstr_ret_of_empty h]
    exact ⟨rfl, rfl, rfl⟩
  · rw [State.afterInstr_ret_of_not_empty h]
    exact ⟨rfl, rfl, rfl⟩

/-- Settles O26, by the case of a full stack and the case of a free entry. -/
theorem callPushesItsOwnAddress : Obligations.CallPushesItsOwnAddress := by
  refine ⟨encoding_rowOf (.call 0), fun nnn s => ⟨_, exec_eq (.call nnn) s, fun h => ?_, fun h => ?_,
    s.afterInstr_sameOutsideCalls (.inr ⟨nnn, rfl⟩)⟩⟩
  · rw [State.afterInstr_call_of_full nnn h]
    exact ⟨⟨rfl, rfl⟩, rfl, rfl⟩
  · rw [State.afterInstr_call_of_not_full nnn h]
    exact ⟨rfl, rfl, zext16_toNat nnn, rfl⟩

/-- Settles O25: JP is `State.jumpTo`, and a jump to the pc it is at is no change. -/
theorem jpJumpsUnconditionally : Obligations.JpJumpsUnconditionally := by
  refine ⟨encoding_rowOf (.jp 0), fun nnn s => ⟨_, exec_eq (.jp nnn) s, zext16_toNat nnn, zext16_toNat_le nnn,
    s.jumpTo_sameButPc _, rfl, fun hself => ?_⟩⟩
  have hpc : zext16 nnn = s.pc := BitVec.eq_of_toNat_eq (by rw [zext16_toNat, hself])
  rw [State.afterInstr_jp, hpc, State.jumpTo_pc_self]

/-- Settles O27: both instructions end in the skip pattern, on the comparison with the immediate. -/
theorem skipsOnImmediate : Obligations.SkipsOnImmediate :=
  ⟨encoding_rowOf (.seImm 0 0), encoding_rowOf (.sneImm 0 0), fun x nn s =>
    ⟨skips_of_afterInstr (s.afterInstr_seImm x nn) (byte_beq_iff _ _),
      skips_of_afterInstr (s.afterInstr_sneImm x nn) (byte_bne_iff _ _)⟩⟩

/-- Settles O28: both instructions end in the skip pattern, on the comparison of the registers; a low nibble that is
not 0 is in the table of unknown words (R77). -/
theorem skipsOnRegisters : Obligations.SkipsOnRegisters := by
  refine ⟨encoding_rowOf (.seReg 0 0), encoding_rowOf (.sneReg 0 0), fun w hf hn => ?_, fun x y s =>
    ⟨skips_of_afterInstr (s.afterInstr_seReg x y) (byte_beq_iff _ _),
      skips_of_afterInstr (s.afterInstr_sneReg x y) (byte_bne_iff _ _)⟩⟩
  obtain hf | hf := hf
  · exact ⟨.family5, decodeIn_of_unknownAs ⟨hf, hn⟩⟩
  · exact ⟨.family9, decodeIn_of_unknownAs ⟨hf, hn⟩⟩

/-- Settles O29: JP V0 is `State.jumpTo`, to a sum that does not wrap. -/
theorem jpV0AddsV0Unmasked : Obligations.JpV0AddsV0Unmasked :=
  ⟨encoding_rowOf (.jpV0 0), fun nnn s => ⟨_, exec_eq (.jpV0 nnn) s, zext16_add_setWidth_toNat nnn _,
    s.jumpTo_sameButPc _, rfl⟩⟩

end Sys2Proof.Proofs
end

section
/-! SUPPORT. Register load, arithmetic, logic, shift and random instructions (41_alu.md): each ends in the write of a
register, with or without a flag after it, and an advance of pc. -/

namespace Sys2Proof.Machine

open Sys2Proof.Safety

/-! ### What an instruction that computes in registers leaves alone -/

theorem State.sameOutsideRegs_set_v_pc (s : State) (v : Vector Byte 16) (p : Word) :
    SameOutsideRegs s { s with v := v, pc := p } :=
  ⟨fun _ => rfl, ⟨rfl, rfl⟩, ⟨rfl, rfl⟩, ⟨rfl, rfl⟩, ⟨rfl, rfl, rfl⟩, rfl⟩

section Shapes

variable {s : State} {i : Instr} {x : RegIdx} {b : Byte} {result : Nat}

/-- An instruction that ends in one register write and an advance puts that byte in its register. -/
theorem puts_of_afterInstr (hi : s.afterInstr i = (s.writeV x b).advance) (hb : b.toNat = result) :
    Puts i x result s := by
  refine ⟨(s.writeV x b).advance, by rw [exec_eq, hi], ?_, rfl, rfl, fun r hr => ?_, s.sameOutsideRegs_set_v_pc _ _, rfl⟩
  · simp [State.readV_writeV, hb]
  · have hne : r ≠ x := by simpa using hr
    simp [State.readV_writeV, hne]

/-- An instruction that ends in `writeResult` and an advance puts the byte in its register and then the flag in VF, so
that with x = 0xF the flag stays (R23). -/
theorem putsWithFlag_of_afterInstr {f : Bool} {flag : Prop} (hi : s.afterInstr i = (s.writeResult x b f).advance)
    (hb : b.toNat = result) (hf : f = true ↔ flag) : PutsWithFlag i x result flag s := by
  have hvf : (s.writeResult x b f).advance.readV vf = flagByte f := by simp [State.readV_writeResult]
  refine ⟨(s.writeResult x b f).advance, by rw [exec_eq, hi], fun hx => ?_, fun h => ?_, fun h => ?_, rfl, rfl,
    fun r hr => ?_, s.sameOutsideRegs_set_v_pc _ _, rfl⟩
  · simp [State.readV_writeResult, hx, hb]
  · rw [hvf, hf.2 h]; rfl
  · rw [hvf, Bool.eq_false_iff.2 (mt hf.1 h)]; rfl
  · obtain ⟨hne, hnvf⟩ : r ≠ x ∧ r ≠ vf := by simpa using hr
    simp [State.readV_writeResult, hne, hnvf]

end Shapes

/-! ### The bytes computed, as numbers (R122) -/

theorem byte_sub_toNat (a b : Byte) :
    (a - b).toNat = if a.toNat ≥ b.toNat then a.toNat - b.toNat else a.toNat + 256 - b.toNat := by
  have ha := a.isLt
  have hb := b.isLt
  rw [BitVec.toNat_sub]
  split <;> omega

theorem byte_shiftRight_one_toNat (a : Byte) : (a >>> 1).toNat = a.toNat / 2 := by
  rw [BitVec.toNat_ushiftRight, Nat.shiftRight_one]

theorem byte_shiftLeft_one_toNat (a : Byte) : (a <<< 1).toNat = a.toNat * 2 % 256 := by
  rw [BitVec.toNat_shiftLeft, Nat.shiftLeft_eq]

theorem byte_ofNat_add_mod (a b : Byte) : BitVec.ofNat 8 ((a.toNat + b.toNat) % 256) = a + b := by
  apply BitVec.eq_of_toNat_eq
  rw [BitVec.toNat_ofNat, BitVec.toNat_add, Nat.mod_mod]

/-! ### Two immediate instructions in a row (R111) -/

/-- A second `ADD Vx, nn` adds to what the first left, so the two leave the registers as one with the sum does. -/
theorem State.afterInstr_addImm_addImm_readV (s : State) (x r : RegIdx) (a b : Byte) :
    ((s.afterInstr (.addImm x a)).afterInstr (.addImm x b)).readV r = (s.afterInstr (.addImm x (a + b))).readV r := by
  by_cases hr : r = x
  · simp [State.readV_writeV, hr, BitVec.add_assoc]
  · simp [State.readV_writeV, hr]

theorem State.afterInstr_ldImm_addImm_readV (s : State) (x : RegIdx) (a b : Byte) :
    ((s.afterInstr (.ldImm x a)).afterInstr (.addImm x b)).readV x = a + b := by
  simp [State.readV_writeV]

end Sys2Proof.Machine

namespace Sys2Proof.Proofs

open Sys2Proof.Machine Sys2Proof.Safety

/-- Settles O34: the byte sum is the sum mod 256, and its carry is written last. -/
theorem addWithCarry : Obligations.AddWithCarry :=
  ⟨encoding_rowOf (.addReg 0 0), fun x y s =>
    putsWithFlag_of_afterInstr (s.afterInstr_addReg x y) (BitVec.toNat_add _ _) (carryOut_eq_true_iff _ _)⟩

/-- Settles O35: one subtraction of bytes, by its two cases, with the operands in either order. -/
theorem subtractBothWays : Obligations.SubtractBothWays :=
  ⟨encoding_rowOf (.sub 0 0), encoding_rowOf (.subn 0 0), fun x y s =>
    ⟨putsWithFlag_of_afterInstr (s.afterInstr_sub x y) (byte_sub_toNat _ _) (noBorrow_eq_true_iff _ _),
      putsWithFlag_of_afterInstr (s.afterInstr_subn x y) (byte_sub_toNat _ _) (noBorrow_eq_true_iff _ _)⟩⟩

/-- Settles O36: a shift by one is a division or a multiplication by 2, and the bit moved out is the flag. -/
theorem shiftsMoveOneBitIntoVF : Obligations.ShiftsMoveOneBitIntoVF :=
  ⟨encoding_rowOf (.shr 0 0), encoding_rowOf (.shl 0 0), fun x y s =>
    ⟨putsWithFlag_of_afterInstr (s.afterInstr_shr x y) (byte_shiftRight_one_toNat _) (shiftedOutRight_eq_true_iff _),
      putsWithFlag_of_afterInstr (s.afterInstr_shl x y) (byte_shiftLeft_one_toNat _) (shiftedOutLeft_eq_true_iff _)⟩⟩

/-- Settles O38: the sum of bytes is associative, and is the sum mod 256. -/
theorem wraparoundLaw : Obligations.WraparoundLaw := by
  intro x a b s
  simp only [exec_eq_next_iff, byte_ofNat_add_mod]
  refine ⟨?_, ?_⟩
  · rintro t u rfl rfl
    rw [State.afterInstr_ldImm_addImm_readV, BitVec.toNat_add]
  · rintro t u w rfl rfl rfl r
    exact s.afterInstr_addImm_addImm_readV x r a b

/-- Settles O32: one register write each, of the immediate or of the sum. -/
theorem immediateLoadAndAdd : Obligations.ImmediateLoadAndAdd :=
  ⟨encoding_rowOf (.ldImm 0 0), encoding_rowOf (.addImm 0 0), fun x nn s =>
    ⟨puts_of_afterInstr (s.afterInstr_ldImm x nn) rfl,
      puts_of_afterInstr (s.afterInstr_addImm x nn) (BitVec.toNat_add _ _)⟩⟩

/-- Settles O33: one register write each, of the byte copied or combined bit by bit. -/
theorem copyAndLogic : Obligations.CopyAndLogic :=
  ⟨encoding_rowOf (.ldReg 0 0), encoding_rowOf (.orReg 0 0), encoding_rowOf (.andReg 0 0), encoding_rowOf (.xorReg 0 0),
    fun x y s =>
      ⟨puts_of_afterInstr (s.afterInstr_ldReg x y) rfl,
        puts_of_afterInstr (s.afterInstr_orReg x y) (BitVec.toNat_or _ _),
        puts_of_afterInstr (s.afterInstr_andReg x y) (BitVec.toNat_and _ _),
        puts_of_afterInstr (s.afterInstr_xorReg x y) (BitVec.toNat_xor _ _)⟩⟩

/-- Settles O37: the byte of the draw is masked, whatever it is, and the draw is used up (log 1). -/
theorem rndMasksAFreeByte : Obligations.RndMasksAFreeByte := by
  refine ⟨encoding_rowOf (.rnd 0 0), fun x nn s => ?_⟩
  have hx : (s.afterInstr (.rnd x nn)).readV x = Config.randomByte s.draws &&& nn := by
    simp [State.readV_writeV, State.randomByte]
  refine ⟨_, exec_eq (.rnd x nn) s, hx, ?_, ?_, rfl, rfl, rfl, fun r hr => ?_, fun _ => rfl, ⟨rfl, rfl⟩, ⟨rfl, rfl⟩,
    ⟨rfl, rfl⟩, ⟨rfl, rfl, rfl⟩, rfl⟩
  · rw [hx, BitVec.and_assoc, BitVec.and_not_self]
    exact BitVec.and_zero
  · rintro rfl
    exact hx.trans BitVec.and_zero
  · exact s.afterInstr_readV_of_not_mem (.rnd x nn) hr fun _ => rfl

end Sys2Proof.Proofs
end

section
/-! SUPPORT. Index and memory instructions (42_index_memory.md): three write I, two store a run of bytes at I, one loads
a run of registers from I (R130 to R135). -/

namespace Sys2Proof.Machine

open Sys2Proof.Safety

variable (s : State)

/-! ### What the instructions that write I or load registers leave alone -/

/-- The access table gives the three writers of I and the block load nothing outside V, I, pc and the outputs (R39). -/
theorem State.afterInstr_sameOutsideRegs {i : Instr}
    (hi : (∃ nnn, i = .ldI nnn) ∨ ∃ x, i = .addI x ∨ i = .ldF x ∨ i = .ldRegs x) : SameOutsideRegs s (s.afterInstr i) := by
  have hframe := s.afterInstr_frame i
  have hhost : SameHost s (s.afterInstr i) := ⟨hframe.keypad, hframe.schedule, hframe.phase⟩
  obtain ⟨nnn, rfl⟩ | ⟨x, rfl | rfl | rfl⟩ := hi <;>
    exact ⟨sameMemory_of_mem_eq (hframe.memory (by simp) (by simp)),
      ⟨hframe.stack (by simp), hframe.sp (by simp) (by simp)⟩, ⟨hframe.dt (by simp), hframe.st (by simp)⟩,
      hframe.display (by simp) (by simp), hhost, hframe.draws (by simp)⟩

/-! ### The values that I takes (R130 to R132) -/

/-- The highest glyph address is 255 * 5, so the product does not wrap. -/
theorem glyphAddr_toNat (b : Byte) : (glyphAddr b).toNat = b.toNat * 5 := by
  have hb := b.isLt
  have hlt : b.toNat * 5 < 2 ^ 16 := by omega
  exact (BitVec.toNat_ofNat _ 16).trans (Nat.mod_eq_of_lt hlt)

theorem State.afterInstr_addI_i_toNat (x : RegIdx) :
    (s.afterInstr (.addI x)).i.toNat = (s.i.toNat + (s.readV x).toNat) % 4096 := by
  have hlt : (s.i.toNat + (s.readV x).toNat) % 4096 < 2 ^ 16 := by omega
  exact (BitVec.toNat_ofNat _ 16).trans (Nat.mod_eq_of_lt hlt)

/-! ### Bytes stored in a run at I (R133, R134) -/

/-- In a run of at most 4096 bytes no write meets an earlier one, so byte `k` of the list is at address `a + k`, also
past the top of memory. -/
theorem State.peek_memWriteList_add {bs : List Byte} {k : Nat} {b : Byte} (a : Nat) (hlen : bs.length ≤ 4096)
    (hk : bs[k]? = some b) : (s.memWriteList a bs).peek (a + k) = b := by
  obtain ⟨hlt, -⟩ := List.getElem?_eq_some_iff.1 hk
  have hidx : (a + k + 4095 * a) % 4096 = k := by omega
  rw [State.peek_memWriteList _ _ _ hlen, hidx, hk, Option.getD_some]

/-- `t` is `s` after an instruction that stores `n` bytes at I: what it does beside the values stored. -/
def StoresRun (n : Nat) (s t : State) : Prop :=
  SameMemoryExcept (addrRun s.i.toNat n) s t ∧ t.outputs = s.outputs ++ rangeReports s.pc (addrRun s.i.toNat n) ∧
    t.pc = s.pc + 2 ∧ t.i = s.i ∧ SameRegsExcept [] s t ∧ SameStack s t ∧ SameTimers s t ∧ SameDisplay s t ∧
    SameHost s t ∧ t.draws = s.draws

theorem State.memWriteList_advance_storesRun (bs : List Byte) :
    StoresRun bs.length s (s.memWriteList s.i.toNat bs).advance := by
  refine ⟨s.memWriteList_sameMemoryExcept _ bs, s.memWriteList_outputs _ bs, ?_⟩
  simp [SameRegsExcept, SameStack, SameTimers, SameDisplay, SameHost]

/-- The three digits are below 10, so each fits its byte. -/
theorem decimalDigits_map_toNat (b : Byte) :
    (decimalDigits b).map BitVec.toNat = [b.toNat / 100, b.toNat / 10 % 10, b.toNat % 10] := by
  have hb := b.isLt
  have hhundreds : b.toNat / 100 < 2 ^ 8 := by omega
  have htens : b.toNat / 10 % 10 < 2 ^ 8 := by omega
  have hones : b.toNat % 10 < 2 ^ 8 := by omega
  simp only [decimalDigits, List.map_cons, List.map_nil, BitVec.toNat_ofNat, Nat.mod_eq_of_lt hhundreds,
    Nat.mod_eq_of_lt htens, Nat.mod_eq_of_lt hones]

theorem State.afterInstr_ldB_storesRun (x : RegIdx) : StoresRun 3 s (s.afterInstr (.ldB x)) :=
  s.memWriteList_advance_storesRun (decimalDigits (s.readV x))

theorem State.afterInstr_ldB_peek_toNat (x : RegIdx) {k d : Nat}
    (hk : [(s.readV x).toNat / 100, (s.readV x).toNat / 10 % 10, (s.readV x).toNat % 10][k]? = some d) :
    ((s.afterInstr (.ldB x)).peek (s.i.toNat + k)).toNat = d := by
  rw [← decimalDigits_map_toNat, List.getElem?_map, Option.map_eq_some_iff] at hk
  obtain ⟨b, hb, rfl⟩ := hk
  exact congrArg BitVec.toNat (s.peek_memWriteList_add s.i.toNat (by simp [decimalDigits]) hb)

/-! ### Register blocks (R134, R135) -/

theorem State.afterInstr_stRegs_storesRun (x : RegIdx) : StoresRun (x.val + 1) s (s.afterInstr (.stRegs x)) := by
  have hrun := s.memWriteList_advance_storesRun ((regsUpTo x).map s.readV)
  rwa [List.length_map, regsUpTo_length] at hrun

theorem State.afterInstr_stRegs_peek {x k : RegIdx} (hk : k ≤ x) :
    (s.afterInstr (.stRegs x)).peek (s.i.toNat + k.val) = s.readV k := by
  have hlen : ((regsUpTo x).map s.readV).length ≤ 4096 := by
    rw [List.length_map, regsUpTo_length]
    omega
  have hkth : ((regsUpTo x).map s.readV)[k.val]? = some (s.readV k) := by
    rw [List.getElem?_map, regsUpTo_getElem?, dif_pos (show k.val ≤ x.val from hk)]
    rfl
  exact s.peek_memWriteList_add s.i.toNat hlen hkth

theorem State.afterInstr_ldRegs_readV {x k : RegIdx} (hk : k ≤ x) :
    (s.afterInstr (.ldRegs x)).readV k = s.peek (s.i.toNat + k.val) := by
  rw [State.afterInstr_ldRegs, State.advance_readV, State.loadRegs_readV, if_pos ((mem_regsUpTo x k).2 hk)]

theorem State.afterInstr_ldRegs_outputs (x : RegIdx) :
    (s.afterInstr (.ldRegs x)).outputs = s.outputs ++ rangeReports s.pc (addrRun s.i.toNat (x.val + 1)) := by
  rw [State.afterInstr_ldRegs, State.advance_outputs, State.loadRegs_outputs, addrRun, ← regsUpTo_val, List.map_map]
  rfl

end Sys2Proof.Machine

namespace Sys2Proof.Proofs

open Sys2Proof.Machine Sys2Proof.Safety

/-- Settles O40: the sum is masked to 12 bits, and its overflow is VF's row in the table of R22. -/
theorem addIndexFlagsPassingTheTop : Obligations.AddIndexFlagsPassingTheTop := by
  refine ⟨encoding_rowOf (.addI 0), fun x s => ?_⟩
  obtain ⟨hone, hzero⟩ := (flagRegisterAfterEachInstruction.1 (.addI x) s _ (exec_eq _ s)).1 _ rfl
  refine ⟨_, exec_eq (.addI x) s, s.afterInstr_addI_i_toNat x, fun h => congrArg BitVec.toNat (hone h),
    fun h => congrArg BitVec.toNat (hzero h.not_gt), rfl, fun r hr => ?_,
    s.afterInstr_sameOutsideRegs (.inr ⟨x, .inl rfl⟩), rfl⟩
  exact s.afterInstr_readV_of_not_mem (.addI x) List.not_mem_nil fun hvf => absurd (List.mem_singleton.2 hvf) hr

/-- Settles O41: the digits are a run of three bytes at I. -/
theorem bcdStoresThreeDigits : Obligations.BcdStoresThreeDigits := by
  refine ⟨encoding_rowOf (.ldB 0), fun x s => ⟨_, exec_eq (.ldB x) s, ?_, ?_, ?_, s.afterInstr_ldB_storesRun x⟩⟩
  · exact s.afterInstr_ldB_peek_toNat x (k := 0) rfl
  · exact s.afterInstr_ldB_peek_toNat x (k := 1) rfl
  · exact s.afterInstr_ldB_peek_toNat x (k := 2) rfl

/-- Settles O42: V0 to Vx are a run of x + 1 bytes at I. -/
theorem registerDumpStoresV0ToVx : Obligations.RegisterDumpStoresV0ToVx :=
  ⟨encoding_rowOf (.stRegs 0), fun x s =>
    ⟨_, exec_eq (.stRegs x) s, fun _ hk => s.afterInstr_stRegs_peek hk, s.afterInstr_stRegs_storesRun x⟩⟩

/-- Settles O43: the block load writes no register above x, and neither memory nor I. -/
theorem registerLoadFillsV0ToVx : Obligations.RegisterLoadFillsV0ToVx := by
  refine ⟨encoding_rowOf (.ldRegs 0), fun x s => ⟨_, exec_eq (.ldRegs x) s, fun k hk => s.afterInstr_ldRegs_readV hk,
    fun k hk => ?_, s.afterInstr_ldRegs_outputs x, s.afterInstr_pc (.ldRegs x),
    (s.afterInstr_frame (.ldRegs x)).index (by simp) (by simp) (by simp),
    s.afterInstr_sameOutsideRegs (.inr ⟨x, .inr (.inr rfl)⟩)⟩⟩
  exact s.afterInstr_readV_of_not_mem (.ldRegs x) (mt (mem_regsUpTo x k).1 hk.not_ge) fun _ => rfl

/-- Settles O44: the load reads, at the I the dump left, the bytes the dump stored. -/
theorem dumpThenLoadRestoresRegisters : Obligations.DumpThenLoadRestoresRegisters := by
  intro x s t u r ht hmem hi hr k hk
  rw [exec_eq_next_iff] at ht hr
  have hindex : t.i = s.i := by rw [ht, (s.afterInstr_frame (.stRegs x)).index (by simp) (by simp) (by simp)]
  calc r.readV k
    _ = u.peek (u.i.toNat + k.val) := by rw [hr, u.afterInstr_ldRegs_readV hk]
    _ = t.peek (s.i.toNat + k.val) := by rw [sameMemory_of_mem_eq hmem, hi, hindex]
    _ = s.readV k := by rw [ht, s.afterInstr_stRegs_peek hk]

/-- Settles O39: both instructions write I and advance; neither value wraps. -/
theorem setIndexAndFontAddress : Obligations.SetIndexAndFontAddress :=
  ⟨encoding_rowOf (.ldI 0), encoding_rowOf (.ldF 0),
    fun nnn s => ⟨_, exec_eq (.ldI nnn) s, zext16_toNat nnn, rfl, fun _ _ => rfl,
      s.afterInstr_sameOutsideRegs (.inl ⟨nnn, rfl⟩), rfl⟩,
    fun x s => ⟨_, exec_eq (.ldF x) s, glyphAddr_toNat _, rfl, fun _ _ => rfl,
      s.afterInstr_sameOutsideRegs (.inr ⟨x, .inr (.inl rfl)⟩), rfl⟩⟩

end Sys2Proof.Proofs
end

section
/-! SUPPORT. The display (43_display.md): what DRW leaves in the framebuffer and what it reports, that a second draw
meets the same sprite, and the order of a snapshot (R140 to R147). -/

namespace Sys2Proof.Machine

open Sys2Proof.Safety

variable (s : State)

/-! ### One draw (R141) -/

/-- A set bit of the sprite that `DRW Vx, Vy, n` reads in `s` lands on pixel (px, py). -/
def State.DrwCovers (x y : RegIdx) (n : Fin 16) (px : Col) (py : Row) : Prop :=
  SpriteCovers (s.readV x).toNat (s.readV y).toNat ((addrRun s.i.toNat n.val).map s.peek) px py

theorem State.afterInstr_drw_pixel (x y : RegIdx) (n : Fin 16) (px : Col) (py : Row) :
    (s.DrwCovers x y n px py → (s.afterInstr (.drw x y n)).gfx.pixel px py = !s.gfx.pixel px py) ∧
      (¬ s.DrwCovers x y n px py → (s.afterInstr (.drw x y n)).gfx.pixel px py = s.gfx.pixel px py) := by
  have hlen : (s.spriteRows n.val).length ≤ 32 := by
    simp only [State.spriteRows, State.addrs, List.length_map, List.length_range]
    omega
  rw [State.afterInstr_drw, State.advance_gfx, State.writeFlag_gfx, State.redraw_gfx]
  exact (drawn_blit s.gfx (s.readV x) (s.readV y) _ hlen).1 px py

/-- VF after DRW, from its row in the table of R22. -/
theorem State.afterInstr_drw_readV_vf (x y : RegIdx) (n : Fin 16) :
    ((∃ px py, s.DrwCovers x y n px py ∧ s.gfx.pixel px py = true) → (s.afterInstr (.drw x y n)).readV vf = 1) ∧
      ((¬ ∃ px py, s.DrwCovers x y n px py ∧ s.gfx.pixel px py = true) →
        (s.afterInstr (.drw x y n)).readV vf = 0) :=
  (Proofs.flagRegisterAfterEachInstruction.1 (.drw x y n) s _ (exec_eq _ s)).1 _ rfl

theorem State.afterInstr_drw_outputs (x y : RegIdx) (n : Fin 16) :
    (s.afterInstr (.drw x y n)).outputs = s.outputs ++ rangeReports s.pc (addrRun s.i.toNat n.val) := by
  rw [State.afterInstr_drw, State.advance_outputs, State.writeFlag_outputs, State.redraw_outputs,
    State.checkAddrs_outputs, State.addrs_eq_addrRun]

theorem State.afterInstr_drw_sameRegsExcept_vf (x y : RegIdx) (n : Fin 16) :
    SameRegsExcept [vf] s (s.afterInstr (.drw x y n)) := fun _ hr =>
  s.afterInstr_readV_of_not_mem (.drw x y n) List.not_mem_nil fun hvf => absurd (List.mem_singleton.2 hvf) hr

/-! ### Two draws (R146) -/

/-- A draw whose coordinates are not in VF leaves them, I and memory, so a second one covers the same pixels. -/
theorem State.afterInstr_drw_drwCovers {x y : RegIdx} (hx : x ≠ vf) (hy : y ≠ vf) (n : Fin 16) :
    (s.afterInstr (.drw x y n)).DrwCovers x y n = s.DrwCovers x y n := by
  have hframe := s.afterInstr_frame (.drw x y n)
  have hregs := s.afterInstr_drw_sameRegsExcept_vf x y n
  have hpeek : (s.afterInstr (.drw x y n)).peek = s.peek :=
    funext (sameMemory_of_mem_eq (hframe.memory (by simp) (by simp)))
  unfold State.DrwCovers
  rw [hregs x (by simpa using hx), hregs y (by simpa using hy), hpeek, hframe.index (by simp) (by simp) (by simp)]

/-- Each covered pixel is toggled twice, each other pixel not at all. -/
theorem State.afterInstr_drw_drw_gfx {x y : RegIdx} (hx : x ≠ vf) (hy : y ≠ vf) (n : Fin 16) :
    ((s.afterInstr (.drw x y n)).afterInstr (.drw x y n)).gfx = s.gfx := by
  apply Gfx.ext_pixel
  intro px py
  have hfirst := s.afterInstr_drw_pixel x y n px py
  have hsecond := (s.afterInstr (.drw x y n)).afterInstr_drw_pixel x y n px py
  rw [s.afterInstr_drw_drwCovers hx hy] at hsecond
  by_cases hcov : s.DrwCovers x y n px py
  · rw [hsecond.1 hcov, hfirst.1 hcov, Bool.not_not]
  · rw [hsecond.2 hcov, hfirst.2 hcov]

theorem State.afterInstr_drw_readV_vf_eq_one_iff (x y : RegIdx) (n : Fin 16) :
    ((s.afterInstr (.drw x y n)).readV vf).toNat = 1 ↔
      ∃ px py, s.DrwCovers x y n px py ∧ s.gfx.pixel px py = true := by
  obtain ⟨hone, hzero⟩ := s.afterInstr_drw_readV_vf x y n
  refine ⟨fun hvf => ?_, fun h => congrArg BitVec.toNat (hone h)⟩
  by_contra h
  rw [hzero h] at hvf
  exact absurd hvf (by decide)

/-- A covered pixel is on after a draw exactly if it was off before. -/
theorem State.drwCovers_and_pixel_afterInstr_iff (x y : RegIdx) (n : Fin 16) (px : Col) (py : Row) :
    s.DrwCovers x y n px py ∧ (s.afterInstr (.drw x y n)).gfx.pixel px py = true ↔
      s.DrwCovers x y n px py ∧ s.gfx.pixel px py = false :=
  and_congr_right fun hcov => by rw [(s.afterInstr_drw_pixel x y n px py).1 hcov, Bool.not_eq_true']

/-! ### The snapshot (R147) -/

theorem Gfx.flat_eq_toList_flatten (g : Gfx) : g.flat = g.flatten.toList := by
  change _ = (g.toArray.map Vector.toArray).flatten.toList
  rw [Array.toList_flatten, Array.toList_map, List.map_map]
  rfl

theorem Gfx.flat_length (g : Gfx) : g.flat.length = 2048 := by
  rw [Gfx.flat_eq_toList_flatten, Vector.length_toList]

theorem Gfx.flat_getElem? (g : Gfx) (px : Col) (py : Row) :
    g.flat[py.val * 64 + px.val]? = some (g.pixel px py) := by
  have hlt : py.val * 64 + px.val < 32 * 64 := by omega
  have hrow : (py.val * 64 + px.val) / 64 = py.val := by omega
  have hcol : (py.val * 64 + px.val) % 64 = px.val := by omega
  rw [Gfx.flat_eq_toList_flatten, Vector.getElem?_toList, Vector.getElem?_eq_getElem hlt, Vector.getElem_flatten]
  simp only [hrow, hcol, Gfx.pixel]

end Sys2Proof.Machine

namespace Sys2Proof.Proofs

open Sys2Proof.Machine Sys2Proof.Safety

/-- Settles O48: the pixels of at most 32 rows are distinct, so the loop toggles each of them once. -/
theorem blitTogglesExactlyTheSprite : Obligations.BlitTogglesExactlyTheSprite :=
  fun g xo yo rows hlen => drawn_blit g xo yo rows (hlen.trans (by decide))

/-- Settles O47: the blit of the rows at I, VF from the table of R22, and the rest from the access table (R39). -/
theorem drwXorsTheSprite : Obligations.DrwXorsTheSprite := by
  refine ⟨encoding_rowOf (.drw 0 0 0), fun x y n s => ?_⟩
  have hframe := s.afterInstr_frame (.drw x y n)
  obtain ⟨hone, hzero⟩ := s.afterInstr_drw_readV_vf x y n
  exact ⟨_, exec_eq (.drw x y n) s, s.afterInstr_drw_pixel x y n, fun h => congrArg BitVec.toNat (hone h),
    fun h => congrArg BitVec.toNat (hzero h), rfl, s.afterInstr_drw_outputs x y n, s.afterInstr_pc (.drw x y n),
    hframe.index (by simp) (by simp) (by simp), s.afterInstr_drw_sameRegsExcept_vf x y n,
    sameMemory_of_mem_eq (hframe.memory (by simp) (by simp)), ⟨hframe.stack (by simp), hframe.sp (by simp) (by simp)⟩,
    ⟨hframe.dt (by simp), hframe.st (by simp)⟩, ⟨hframe.keypad, hframe.schedule, hframe.phase⟩,
    hframe.draws (by simp)⟩

/-- Settles O49: the second draw covers the same pixels, on a framebuffer where the first has toggled them. -/
theorem drawingTwiceRestoresTheDisplay : Obligations.DrawingTwiceRestoresTheDisplay := by
  intro x y n s t u hx hy ht hu
  rw [exec_eq_next_iff] at ht hu
  subst ht hu
  refine ⟨s.afterInstr_drw_drw_gfx hx hy n, ?_⟩
  rw [State.afterInstr_drw_readV_vf_eq_one_iff, s.afterInstr_drw_drwCovers hx hy]
  exact exists₂_congr (s.drwCovers_and_pixel_afterInstr_iff x y n)

/-- Settles O50: the event outputs the framebuffer flattened row by row, and no more (log 3). -/
theorem snapshotIsRowMajor : Obligations.SnapshotIsRowMajor := by
  intro s rest hsch
  refine ⟨s.gfx.flat, ?_, s.gfx.flat_length, s.gfx.flat_getElem?⟩
  rw [step, hsch]
  rfl

/-- Settles O46: CLS puts the blank framebuffer in place, sets drawFlag and advances. -/
theorem clsTurnsEveryPixelOff : Obligations.ClsTurnsEveryPixelOff :=
  ⟨encoding_rowOf .cls, fun s => ⟨_, exec_eq .cls s, Gfx.pixel_blank, rfl, rfl, fun _ _ => rfl, rfl, fun _ => rfl,
    ⟨rfl, rfl⟩, ⟨rfl, rfl⟩, ⟨rfl, rfl, rfl⟩, rfl, rfl⟩⟩

end Sys2Proof.Proofs
end

section
/-! SUPPORT. Keypad and timers (44_keypad_timers.md): the two key skips, with their range check, the key wait, and the
loads from and into the timers (R150 to R156). -/

namespace Sys2Proof.Machine

open Sys2Proof.Safety

variable (s : State)

/-! ### Key skips (R150, R151, R156) -/

theorem State.keyDown_eq_true_iff (b : Byte) : s.keyDown b = true ↔ KeyIsDown s b.toNat := by
  simp [State.keyDown, KeyIsDown]

theorem State.afterInstr_skp_pc (x : RegIdx) :
    (s.afterInstr (.skp x)).pc = if s.keyDown (s.readV x) then s.pc + 4 else s.pc + 2 := by
  rw [State.afterInstr_skp, State.skipIf_pc, State.checkKey_pc]

theorem State.afterInstr_sknp_pc (x : RegIdx) :
    (s.afterInstr (.sknp x)).pc = if s.keyDown (s.readV x) then s.pc + 2 else s.pc + 4 := by
  rw [State.afterInstr_sknp, State.skipIf_pc, State.checkKey_pc]
  cases s.keyDown (s.readV x) <;> rfl

/-- A skip after the range check of a key number changes pc and, by the report, the outputs. -/
theorem State.checkKey_skipIf_sameButPc (b : Byte) (c : Bool) : SameButPc s ((s.checkKey b).skipIf c) := by
  simp [SameButPc, SameOutsideRegs, SameRegsExcept, SameMemory, SameStack, SameTimers, SameDisplay, SameHost]

theorem State.checkKey_skipIf_outputs (b : Byte) (c : Bool) :
    ((s.checkKey b).skipIf c).outputs =
      s.outputs ++ (if b.toNat > 15 then [.report ⟨.keyIndexOutOfRange, s.pc, b.toNat⟩] else []) := by
  rw [State.skipIf_outputs, State.checkKey_outputs]

/-! ### The key wait (R152) -/

theorem State.afterInstr_ldVxK_of_some (x : RegIdx) {k : KeyIdx} (h : s.lowestKey = some k) :
    s.afterInstr (.ldVxK x) = (s.writeV x (BitVec.ofNat 8 k.val)).advance := by
  rw [State.afterInstr_ldVxK, h, Option.elim_some]

theorem State.afterInstr_ldVxK_of_none (x : RegIdx) (h : s.lowestKey = none) : s.afterInstr (.ldVxK x) = s := by
  rw [State.afterInstr_ldVxK, h, Option.elim_none]

/-- A key number fits in a byte. -/
theorem keyIdx_ofNat_toNat (k : KeyIdx) : (BitVec.ofNat 8 k.val).toNat = k.val :=
  (BitVec.toNat_ofNat _ 8).trans (Nat.mod_eq_of_lt (by omega))

/-! ### The sound output (R155) -/

theorem State.soundActive_eq_true_iff : s.soundActive = true ↔ s.st ≠ 0 := bne_iff_ne

end Sys2Proof.Machine

namespace Sys2Proof.Proofs

open Sys2Proof.Machine Sys2Proof.Safety

/-- Settles O51: both end in the skip pattern after the range check, one on the key being down and one on its being up. -/
theorem keySkipsCheckTheKeyNumber : Obligations.KeySkipsCheckTheKeyNumber := by
  refine ⟨encoding_rowOf (.skp 0), encoding_rowOf (.sknp 0), fun x s =>
    ⟨⟨_, exec_eq (.skp x) s, fun h => ?_, fun h => ?_, s.checkKey_skipIf_sameButPc _ _, s.checkKey_skipIf_outputs _ _⟩,
      ⟨_, exec_eq (.sknp x) s, fun h => ?_, fun h => ?_, s.checkKey_skipIf_sameButPc _ _,
        s.checkKey_skipIf_outputs _ _⟩⟩⟩
  · rw [State.afterInstr_skp_pc, if_pos ((s.keyDown_eq_true_iff _).2 h)]
  · rw [State.afterInstr_skp_pc, if_neg (mt (s.keyDown_eq_true_iff _).1 h)]
  · rw [State.afterInstr_sknp_pc, if_pos ((s.keyDown_eq_true_iff _).2 h)]
  · rw [State.afterInstr_sknp_pc, if_neg (mt (s.keyDown_eq_true_iff _).1 h)]

/-- Settles O52, by the two answers of `lowestKey`: each settles one clause and contradicts the hypothesis of the other. -/
theorem keyWaitTakesTheLowestKey : Obligations.KeyWaitTakesTheLowestKey := by
  refine ⟨encoding_rowOf (.ldVxK 0), fun x s => ?_⟩
  obtain ⟨k, hk, hdown, hlower⟩ | ⟨hnone, hup⟩ := s.lowestKey_cases
  · have hputs : Puts (.ldVxK x) x k.val s :=
      puts_of_afterInstr (s.afterInstr_ldVxK_of_some x hk) (keyIdx_ofNat_toNat k)
    exact ⟨fun _ => ⟨k, hdown, hlower, hputs⟩, fun hup => absurd hdown (by simp [hup k])⟩
  · refine ⟨fun ⟨k, hdown⟩ => absurd hdown (by simp [hup k]), fun _ => ?_⟩
    rw [exec_eq, s.afterInstr_ldVxK_of_none x hnone]

/-- Settles O53: a read of DT is one register write; a load changes its timer and pc, and the sound follows ST. -/
theorem timerAccess : Obligations.TimerAccess :=
  ⟨encoding_rowOf (.ldVxDt 0), encoding_rowOf (.ldDtVx 0), encoding_rowOf (.ldStVx 0), fun x s =>
    ⟨puts_of_afterInstr (s.afterInstr_ldVxDt x) rfl,
      ⟨_, exec_eq (.ldDtVx x) s, rfl, rfl, rfl, rfl, fun _ _ => rfl, fun _ => rfl, ⟨rfl, rfl⟩, ⟨rfl, rfl⟩,
        ⟨rfl, rfl, rfl⟩, rfl, rfl⟩,
      ⟨_, exec_eq (.ldStVx x) s, rfl, State.soundActive_eq_true_iff _, rfl, rfl, rfl, fun _ _ => rfl, fun _ => rfl,
        ⟨rfl, rfl⟩, ⟨rfl, rfl⟩, ⟨rfl, rfl, rfl⟩, rfl, rfl⟩⟩⟩

end Sys2Proof.Proofs
end

section
/-! SUPPORT. The records a `Step` outputs: those of the fetch, then those of the word (R160, R161, R166); that the
launch contract is all a `Step` asks (R161, R192); and that no event withdraws an output (R185). -/

namespace Sys2Proof.Machine

open Sys2Proof.Safety

variable (s : State)

/-! ### The reports of an instruction (R160, R161) -/

/-- The reports that instruction `i` makes when it is executed from `s`, in their order. -/
def State.instrReports (i : Instr) : List Output :=
  match i with
  | .ret => if s.sp.val = 0 then [.report ⟨.stackUnderflow, s.pc, 0⟩] else []
  | .call _ => if 16 ≤ s.sp.val then [.report ⟨.stackOverflow, s.pc, 0⟩] else []
  | .drw _ _ n => rangeReports s.pc (addrRun s.i.toNat n.val)
  | .skp x | .sknp x =>
    if (s.readV x).toNat > 15 then [.report ⟨.keyIndexOutOfRange, s.pc, (s.readV x).toNat⟩] else []
  | .ldB _ => rangeReports s.pc (addrRun s.i.toNat 3)
  | .stRegs x | .ldRegs x => rangeReports s.pc (addrRun s.i.toNat (x.val + 1))
  | _ => []

theorem State.afterInstr_outputs (i : Instr) : (s.afterInstr i).outputs = s.outputs ++ s.instrReports i := by
  cases i with
  | ret => rw [State.afterInstr_ret, State.instrReports]; split <;> simp
  | call nnn => rw [State.afterInstr_call, State.instrReports]; by_cases h : s.sp.val < 16 <;> simp [h]
  | ldVxK x => rw [State.afterInstr_ldVxK]; cases s.lowestKey <;> simp [State.instrReports]
  | drw x y n => exact s.afterInstr_drw_outputs x y n
  | skp x | sknp x => exact s.checkKey_skipIf_outputs _ _
  | ldB x => exact s.memWriteList_outputs _ _
  | stRegs x => simp [State.instrReports, State.memWriteList_outputs, regsUpTo_length, State.addr]
  | ldRegs x => exact s.afterInstr_ldRegs_outputs x
  | _ => simp [State.instrReports]

/-- The reports of an executed word: the instruction's, or the one of an unknown word (R78). -/
def State.wordReports (w : Word) : List Output :=
  match decode w with
  | .ok i => s.instrReports i
  | .error _ => [.report ⟨.unknownOpcode, s.pc, w.toNat⟩]

theorem State.wordReports_of_ok {w : Word} {i : Instr} (h : decode w = .ok i) :
    s.wordReports w = s.instrReports i := by
  simp [State.wordReports, h]

theorem State.wordReports_of_error {w : Word} {e : DecodeReject} (h : decode w = .error e) :
    s.wordReports w = [.report ⟨.unknownOpcode, s.pc, w.toNat⟩] := by
  simp [State.wordReports, h]

theorem State.afterWord_outputs (w : Word) : (s.afterWord w).outputs = s.outputs ++ s.wordReports w := by
  cases hd : decode w with
  | ok i => rw [s.afterWord_of_ok hd, s.wordReports_of_ok hd, State.afterInstr_outputs]
  | error e => rw [s.afterWord_of_error hd, s.wordReports_of_error hd]; rfl

@[simp] theorem State.fetched_pc : s.fetched.pc = s.pc := by rw [State.fetched_eq]

@[simp] theorem State.fetched_i : s.fetched.i = s.i := by rw [State.fetched_eq]

theorem State.fetched_outputs :
    s.fetched.outputs = s.outputs ++ rangeReports s.pc [s.pc.toNat, s.pc.toNat + 1] := by
  rw [State.fetched_eq]

/-- All that a `Step` outputs: the reports of the fetch, then those of the word (R166). -/
theorem State.fetched_afterWord_outputs (w : Word) :
    (s.fetched.afterWord w).outputs =
      s.outputs ++ (rangeReports s.pc [s.pc.toNat, s.pc.toNat + 1] ++ s.fetched.wordReports w) := by
  rw [State.afterWord_outputs, State.fetched_outputs, List.append_assoc]

/-! ### How many reports a word makes, and at which pc (R160, R166) -/

/-- The outputs are the reports of one access to at most 16 bytes at I, or a single report; each is made at pc. -/
def State.ReportsOfOneAccess (os : List Output) : Prop :=
  (∃ n ≤ 16, os = rangeReports s.pc (addrRun s.i.toNat n)) ∨ ∃ kind info, os = [.report ⟨kind, s.pc, info⟩]

theorem State.reportsOfOneAccess_nil : s.ReportsOfOneAccess [] := .inl ⟨0, by omega, rfl⟩

theorem State.reportsOfOneAccess_run {n : Nat} (h : n ≤ 16) :
    s.ReportsOfOneAccess (rangeReports s.pc (addrRun s.i.toNat n)) := .inl ⟨n, h, rfl⟩

theorem State.reportsOfOneAccess_ite (c : Prop) [Decidable c] (kind : ErrorKind) (info : Nat) :
    s.ReportsOfOneAccess (if c then [.report ⟨kind, s.pc, info⟩] else []) := by
  split
  · exact .inr ⟨kind, info, rfl⟩
  · exact s.reportsOfOneAccess_nil

theorem State.reportsOfOneAccess_instrReports (i : Instr) : s.ReportsOfOneAccess (s.instrReports i) := by
  cases i with
  | ret | call nnn | skp x | sknp x => exact s.reportsOfOneAccess_ite _ _ _
  | drw x y n => exact s.reportsOfOneAccess_run (by omega)
  | ldB x => exact s.reportsOfOneAccess_run (by omega)
  | stRegs x | ldRegs x => exact s.reportsOfOneAccess_run (by omega)
  | _ => exact s.reportsOfOneAccess_nil

theorem State.reportsOfOneAccess_wordReports (w : Word) : s.ReportsOfOneAccess (s.wordReports w) := by
  cases hd : decode w with
  | ok i => rw [s.wordReports_of_ok hd]; exact s.reportsOfOneAccess_instrReports i
  | error e => rw [s.wordReports_of_error hd]; exact .inr ⟨_, _, rfl⟩

theorem addrRun_length (a n : Nat) : (addrRun a n).length = n := by simp [addrRun]

/-- A run that begins inside memory reports at most the bytes after its first. -/
theorem rangeReports_addrRun_length_le (p : Word) {a : Nat} (n : Nat) (ha : a ≤ 0xFFF) :
    (rangeReports p (addrRun a n)).length ≤ n - 1 := by
  cases n with
  | zero => exact Nat.le_refl 0
  | succ n =>
    have hfirst : rangeReports p [a] = [] := (rangeReports_eq_nil_iff p [a]).2 (by simpa using ha)
    rw [addrRun_succ, rangeReports_cons, hfirst, List.nil_append]
    exact (rangeReports_length_le p _).trans_eq (addrRun_length (a + 1) n)

theorem State.ReportsOfOneAccess.length_le {s : State} {os : List Output} (h : s.ReportsOfOneAccess os) :
    os.length ≤ 16 ∧ (s.i.toNat ≤ 0xFFF → os.length ≤ 15) := by
  obtain ⟨n, hn, rfl⟩ | ⟨kind, info, rfl⟩ := h
  · have hall := rangeReports_length_le s.pc (addrRun s.i.toNat n)
    rw [addrRun_length] at hall
    refine ⟨hall.trans hn, fun hi => ?_⟩
    have hrest := rangeReports_addrRun_length_le s.pc n hi
    omega
  · simp

/-- The outputs are reports, each with `p` as its `at` field. -/
def ReportsAt (p : Word) (os : List Output) : Prop :=
  ∃ rs : List Report, os = rs.map .report ∧ ∀ r ∈ rs, r.atPc = p

theorem ReportsAt.append {p : Word} {os os' : List Output} (h : ReportsAt p os) (h' : ReportsAt p os') :
    ReportsAt p (os ++ os') := by
  obtain ⟨rs, rfl, hrs⟩ := h
  obtain ⟨rs', rfl, hrs'⟩ := h'
  exact ⟨rs ++ rs', List.map_append.symm, List.forall_mem_append.2 ⟨hrs, hrs'⟩⟩

theorem reportsAt_rangeReports (p : Word) (as : List Nat) : ReportsAt p (rangeReports p as) := by
  refine ⟨(as.filter (fun a => decide (a > 0xFFF))).map (Report.mk .addrOutOfRange p), ?_, ?_⟩
  · rw [List.map_map]; rfl
  · exact List.forall_mem_map.2 fun _ _ => rfl

theorem State.ReportsOfOneAccess.reportsAt {s : State} {os : List Output} (h : s.ReportsOfOneAccess os) :
    ReportsAt s.pc os := by
  obtain ⟨n, -, rfl⟩ | ⟨kind, info, rfl⟩ := h
  · exact reportsAt_rangeReports _ _
  · exact ⟨[⟨kind, s.pc, info⟩], rfl, by simp⟩

/-! ### Events other than a `Step` -/

theorem step_of_schedule_cons {s : State} {e : Event} {rest : List Event} (h : s.schedule = e :: rest) :
    step s = ({ s with schedule := rest } : State).deliver e := by
  simp [step, h]

/-- What a `Load` that answers a next state has done: it could not read the image, or the image does not fit, or the
image is in memory (R192, log 9); and no `Step` has been taken (log 4). -/
theorem State.loadEvent_cases {s t : State} {image : Option (List Byte)} {base : Nat}
    (h : s.loadEvent image base = .next t) :
    s.phase ≠ .running ∧
      ((image = none ∧ t = s.failLoad (Config.unknownImageLength s.outputs.length)) ∨
        (∃ bytes, image = some bytes ∧ loadFits base bytes.length = false ∧ t = s.failLoad bytes.length) ∨
        ∃ bytes, image = some bytes ∧ loadFits base bytes.length = true ∧
          t = (s.pokeList base bytes).emit .loadSuccess) := by
  unfold State.loadEvent at h
  split at h
  · cases h
  · next hphase =>
    refine ⟨hphase, ?_⟩
    cases image with
    | none => cases h; exact .inl ⟨rfl, rfl⟩
    | some bytes =>
      right
      dsimp only at h
      split at h <;> cases h
      · next hfits => exact .inr ⟨bytes, rfl, hfits, rfl⟩
      · next hfits => exact .inl ⟨bytes, rfl, by simpa using hfits, rfl⟩

/-- Each event other than a `Step` appends to the outputs; a Reset keeps them as they are (log 3). -/
theorem State.deliver_outputs_prefix {s t : State} {e : Event} (he : e ≠ .step) (ht : s.deliver e = .next t) :
    s.outputs <+: t.outputs := by
  cases e with
  | step => exact absurd rfl he
  | load image base =>
    obtain ⟨-, ⟨-, rfl⟩ | ⟨bytes, -, -, rfl⟩ | ⟨bytes, -, -, rfl⟩⟩ := State.loadEvent_cases ht
    · exact List.prefix_append _ _
    · exact List.prefix_append _ _
    · rw [State.emit_outputs, State.pokeList_outputs]
      exact List.prefix_append _ _
  | tick =>
    cases ht
    rw [State.tickEvent_eq]
    exact List.prefix_append _ _
  | snapshot => cases ht; exact List.prefix_append _ _
  | reset | keyWrite keys | drawAck => cases ht; exact List.prefix_rfl

/-! ### The launch contract (R161, R192, log 4) -/

theorem State.coreStep_of_loadFailed {s : State} (h : s.phase = .loadFailed) :
    s.coreStep = .refused .stepAfterLoadFailure := if_pos h

theorem step_of_loadFailed {s : State} (hphase : s.phase = .loadFailed)
    (hs : s.schedule = [] ∨ s.schedule.head? = some .step) : step s = .refused .stepAfterLoadFailure := by
  obtain hnil | hhead := hs
  · simpa [step, hnil] using State.coreStep_of_loadFailed hphase
  · obtain ⟨rest, hcons⟩ := List.head?_eq_some_iff.1 hhead
    rw [step_of_schedule_cons hcons]
    exact State.coreStep_of_loadFailed (s := { s with schedule := rest }) hphase

/-- After a failed `Load`, each event other than a `Step` and a Reset leaves the failure in place; another `Load` may
write memory all the same. -/
theorem State.deliver_phase_loadFailed {s t : State} {e : Event} (hphase : s.phase = .loadFailed) (hstep : e ≠ .step)
    (hreset : e ≠ .reset) (ht : s.deliver e = .next t) : t.phase = .loadFailed := by
  cases e with
  | step => exact absurd rfl hstep
  | reset => exact absurd rfl hreset
  | load image base =>
    obtain ⟨-, ⟨-, rfl⟩ | ⟨bytes, -, -, rfl⟩ | ⟨bytes, -, -, rfl⟩⟩ := State.loadEvent_cases ht
    · rfl
    · rfl
    · simpa using hphase
  | tick =>
    cases ht
    rw [State.tickEvent_eq]
    exact hphase
  | keyWrite keys | drawAck | snapshot => cases ht; exact hphase

end Sys2Proof.Machine

namespace Sys2Proof.Proofs

open Sys2Proof.Machine Sys2Proof.Safety

/-- Settles O9: an instruction is a total function on states, and so is a `Step` with no failed `Load` before it. -/
theorem stepEventsCompleteUnderTheLaunchContract : Obligations.StepEventsCompleteUnderTheLaunchContract :=
  ⟨fun i s => ⟨_, exec_eq i s⟩, fun _ hnext => ⟨_, step_of_stepsNext hnext⟩⟩

/-- Settles O10: a `Step` is refused for the phase alone, and no event but a Reset writes the phase to another value. -/
theorem stepAfterFailedLoadIsRefused : Obligations.StepAfterFailedLoadIsRefused := by
  intro s hphase
  refine ⟨step_of_loadFailed hphase, fun t hreset hstep => ?_, fun hreset => ?_⟩
  · obtain ⟨hnext, -⟩ | ⟨e, rest, hsch, he, hdel⟩ := step_cases hstep
    · exact absurd hphase hnext.2
    · have hne : e ≠ .reset := fun h => hreset (by rw [hsch, h]; rfl)
      exact State.deliver_phase_loadFailed (s := { s with schedule := rest }) hphase he hne hdel
  · obtain ⟨rest, hcons⟩ := List.head?_eq_some_iff.1 hreset
    exact ⟨_, step_of_schedule_cons hcons, rfl⟩

/-- Settles O20: a `Step` appends its reports, and each other event at most one output. -/
theorem outputsOnlyGrow : Obligations.OutputsOnlyGrow := by
  intro s t hstep
  obtain ⟨-, rfl⟩ | ⟨e, rest, -, he, hdel⟩ := step_cases hstep
  · rw [State.fetched_afterWord_outputs]
    exact List.prefix_append _ _
  · exact State.deliver_outputs_prefix (s := { s with schedule := rest }) he hdel

/-- Settles O21: two reports of the fetch, and those of one access to at most 16 bytes at I; the first of these bytes is
not reported when I is at most 0xFFF. -/
theorem atMostEighteenReportsAStep : Obligations.AtMostEighteenReportsAStep := by
  intro s t hnext hstep
  rw [step_of_stepsNext hnext] at hstep
  cases hstep
  have hword := s.fetched.reportsOfOneAccess_wordReports s.fetchedWord
  have hat := hword.reportsAt
  have hwordLen := hword.length_le
  rw [State.fetched_pc] at hat
  rw [State.fetched_i] at hwordLen
  have hfetchLen : (rangeReports s.pc [s.pc.toNat, s.pc.toNat + 1]).length ≤ 2 := rangeReports_length_le _ _
  obtain ⟨rs, hrs, hpc⟩ := (reportsAt_rangeReports s.pc [s.pc.toNat, s.pc.toNat + 1]).append hat
  have hlen := congrArg List.length hrs
  rw [List.length_append, List.length_map] at hlen
  exact ⟨rs, by rw [State.fetched_afterWord_outputs, hrs], hpc, by omega, fun _ => by omega⟩

end Sys2Proof.Proofs
end

section
/-! SUPPORT. The events by which the host drives the timers, the keypad and the redraw flag (R172 to R177), one at a
time and, for the Tick, in a run. -/

namespace Sys2Proof.Machine

/-! ### The Tick (R172, R173, R174) -/

/-- What a Tick does, with the timers and the pulse in numbers. -/
theorem step_of_tick {s : State} {rest : List Event} (h : s.schedule = .tick :: rest) :
    step s = .next { s with
      schedule := rest
      dt := tickDown s.dt
      st := tickDown s.st
      outputs := s.outputs ++ (if s.st.toNat = 1 then [.soundStop] else []) } := by
  rw [step_of_schedule_cons h, State.deliver, State.tickEvent_eq]
  simp only [← BitVec.toNat_inj]
  rfl

/-- A run of one more step goes on from the state the first step answers. -/
theorem run_succ_of_step {s t : State} (h : step s = .next t) (k : Nat) :
    Host.Core.run core (k + 1) s = Host.Core.run core k t := by
  have hcore : core.step s = .next t := h
  simp only [Host.Core.run, hcore]

/-- The pulse of the first Tick and that of `k` more: ST is 1 at no more than one of them (R174). -/
theorem soundStop_pulses_succ (n k : Nat) :
    (if n = 1 then [Output.soundStop] else []) ++ (if 1 ≤ n - 1 ∧ n - 1 ≤ k then [.soundStop] else []) =
      if 1 ≤ n ∧ n ≤ k + 1 then [.soundStop] else [] := by
  by_cases h : n = 1
  · simp [h]
  · have hiff : (1 ≤ n - 1 ∧ n - 1 ≤ k) ↔ (1 ≤ n ∧ n ≤ k + 1) := by omega
    simp only [h, if_false, List.nil_append, hiff]

end Sys2Proof.Machine

namespace Sys2Proof.Proofs

open Sys2Proof.Machine Sys2Proof.Safety

/-- Settles O54: the new timers are `tickDown` of the old, which takes 1 from a number that is not 0. -/
theorem tickCountsBothTimersDown : Obligations.TickCountsBothTimersDown :=
  fun s _ h => ⟨_, step_of_tick h, tickDown_toNat s.dt, tickDown_toNat s.st, rfl, rfl⟩

/-- Settles O55, by induction on the number of Ticks: the first one by O54, the others from the state it leaves. -/
theorem ticksCountDownToZero : Obligations.TicksCountDownToZero := by
  intro k
  induction k with
  | zero =>
    intro s rest h
    exact ⟨s, rfl, h, rfl, rfl, by rw [if_neg (by omega), List.append_nil]⟩
  | succ k ih =>
    intro s rest h
    rw [List.replicate_succ, List.cons_append] at h
    obtain ⟨u, hstep, hdt, hst, hout, hu⟩ := tickCountsBothTimersDown s _ h
    obtain ⟨t, hrun, hsch, hdt', hst', hout'⟩ := ih u rest (congrArg State.schedule hu)
    refine ⟨t, (run_succ_of_step hstep k).trans hrun, hsch, by omega, by omega, ?_⟩
    rw [hout', hout, hst, List.append_assoc, soundStop_pulses_succ]

/-- Settles O56: each of the two events is one field update on the rest of the schedule. -/
theorem keyWriteAndDrawAck : Obligations.KeyWriteAndDrawAck :=
  fun _ _ => ⟨fun _ h => step_of_schedule_cons h, fun h => step_of_schedule_cons h⟩

end Sys2Proof.Proofs
end

section
/-! SUPPORT. Reset, Load and what a program can rely on (70_reset_and_hazards.md): when a `Step` is free of reports, the
round trip of a call, the jump to itself, and the two events that put a program in place (R190 to R202). -/

namespace Sys2Proof.Machine

open Sys2Proof.Safety

variable (s : State)

/-! ### When a `Step` makes no report (R202) -/

theorem rangeReports_addrRun_succ_eq_nil_iff (p : Word) (a n : Nat) :
    rangeReports p (addrRun a (n + 1)) = [] ↔ a + n ≤ 0xFFF := by
  rw [rangeReports_eq_nil_iff, addrRun, List.forall_mem_map]
  constructor
  · intro h
    exact h n (List.mem_range.2 n.lt_succ_self)
  · intro h k hk
    have hlt := List.mem_range.1 hk
    change a + k ≤ 0xFFF
    omega

/-- The two addresses of a fetch are in memory when the higher one is. -/
theorem rangeReports_fetch_eq_nil_iff (p : Word) (a : Nat) : rangeReports p [a, a + 1] = [] ↔ a ≤ 0xFFE := by
  have hrun : [a, a + 1] = addrRun a 2 := rfl
  rw [hrun, rangeReports_addrRun_succ_eq_nil_iff]
  omega

theorem singleton_ite_eq_nil_iff (o : Output) (c : Prop) [Decidable c] : (if c then [o] else []) = [] ↔ ¬ c := by
  by_cases h : c <;> simp [h]

/-- An instruction makes no report exactly when its operands are in bounds. -/
theorem State.instrReports_eq_nil_iff (i : Instr) : s.instrReports i = [] ↔ OperandsInBounds i s := by
  cases i with
  | ret => exact (singleton_ite_eq_nil_iff _ _).trans Nat.pos_iff_ne_zero.symm
  | call nnn => exact (singleton_ite_eq_nil_iff _ _).trans not_le
  | skp x | sknp x => exact (singleton_ite_eq_nil_iff _ _).trans not_lt
  | ldB x => exact rangeReports_addrRun_succ_eq_nil_iff s.pc s.i.toNat 2
  | stRegs x | ldRegs x => exact rangeReports_addrRun_succ_eq_nil_iff s.pc s.i.toNat x.val
  | drw x y n =>
    obtain ⟨n, hn⟩ := n
    change rangeReports s.pc (addrRun s.i.toNat n) = [] ↔ n = 0 ∨ s.i.toNat + n - 1 ≤ 0xFFF
    cases n with
    | zero => exact iff_of_true rfl (.inl rfl)
    | succ n =>
      rw [rangeReports_addrRun_succ_eq_nil_iff]
      omega
  | _ => exact iff_of_true rfl trivial

/-- An unknown word is always reported (R78). -/
theorem State.wordReports_eq_nil_iff (w : Word) :
    s.wordReports w = [] ↔ ∃ i, decode w = .ok i ∧ OperandsInBounds i s := by
  cases hd : decode w with
  | ok i => simp [s.wordReports_of_ok hd, State.instrReports_eq_nil_iff]
  | error e => simp [s.wordReports_of_error hd]

/-- The fetch changes nothing that the bounds of an instruction depend on. -/
theorem State.operandsInBounds_fetched_iff (i : Instr) : OperandsInBounds i s.fetched ↔ OperandsInBounds i s := by
  rw [State.fetched_eq]
  cases i <;> rfl

/-! ### CALL, then RET (R201) -/

/-- The entry on top of a stack that agrees with the one a push left is the address pushed. -/
theorem State.top_eq_of_push {s u : State} {a : Word} (h : s.sp.val < 16) (hu : u.sp.val ≠ 0)
    (hsp : u.sp.val = s.sp.val + 1)
    (hstack : ∀ k : Fin 16, k.val < u.sp.val → u.stack[k.val] = (s.push a h).stack[k.val]) : u.top hu = a := by
  have htop : u.top hu = u.stack[s.sp.val] := by simp only [State.top, hsp, Nat.add_sub_cancel]
  have hlt : s.sp.val < u.sp.val := by omega
  rw [htop, hstack ⟨s.sp.val, h⟩ hlt]
  exact Vector.getElem_set_self h

/-! ### A `Step` that leaves no trace of its own (R196) -/

theorem State.fetched_eq_self {s : State} (hschedule : s.schedule = []) (hphase : s.phase = .running)
    (hpc : s.pc.toNat ≤ 0xFFE) : s.fetched = s := by
  rw [State.fetched_eq, (rangeReports_fetch_eq_nil_iff _ _).2 hpc, List.append_nil, hschedule, List.tail_nil,
    ← hschedule, ← hphase]

/-! ### The Load event (R192, R193, log 9) -/

theorem loadFits_eq_true_iff (base len : Nat) : loadFits base len = true ↔ len ≤ 3584 ∧ base + len ≤ 0x1000 :=
  decide_eq_true_iff

section Load

variable (base : Nat) (bytes : List Byte)

theorem State.loadEvent_of_running (image : Option (List Byte)) (h : s.phase = .running) :
    s.loadEvent image base = .fault .loadDuringRun := if_pos h

theorem State.loadEvent_of_fits (h : s.phase ≠ .running) (hfits : loadFits base bytes.length = true) :
    s.loadEvent (some bytes) base = .next ((s.pokeList base bytes).emit .loadSuccess) :=
  (if_neg h).trans (if_pos hfits)

theorem State.loadEvent_of_not_fits (h : s.phase ≠ .running) (hfits : ¬ loadFits base bytes.length = true) :
    s.loadEvent (some bytes) base = .next (s.failLoad bytes.length) :=
  (if_neg h).trans (if_neg hfits)

theorem State.loadEvent_of_unreadable (h : s.phase ≠ .running) :
    s.loadEvent none base = .next (s.failLoad (Config.unknownImageLength s.outputs.length)) := if_neg h

end Load

/-- The host's copy changes memory alone. -/
theorem State.pokeList_with_mem (a : Nat) (bs : List Byte) : { s.pokeList a bs with mem := s.mem } = s := by
  induction bs generalizing a s with
  | nil => rfl
  | cons b bs ih => exact congrArg (fun t : State => { t with mem := s.mem }) (ih (s.poke a b) (a + 1))

theorem State.pokeList_peek_add {bs : List Byte} {a k : Nat} (hfit : a + bs.length ≤ 0x1000) (hk : k < bs.length) :
    (s.pokeList a bs).peek (a + k) = bs.getD k 0 := by
  have hmod : (a + k) % 4096 = a + k := Nat.mod_eq_of_lt (by omega)
  rw [State.pokeList_peek _ _ _ hfit, hmod, if_pos (Nat.le_add_right a k), Nat.add_sub_cancel_left]
  simp [hk]

/-- An address is in the run of the copy when it is at a place the list has. -/
theorem State.pokeList_sameMemoryExcept {bs : List Byte} {a : Nat} (hfit : a + bs.length ≤ 0x1000) :
    SameMemoryExcept (addrRun a bs.length) s (s.pokeList a bs) := by
  intro c hc
  rw [State.pokeList_peek _ _ _ hfit]
  split
  · next hle =>
    have hback : a + (c % 4096 - a) = c % 4096 := Nat.add_sub_cancel' hle
    have hpast : bs.length ≤ c % 4096 - a := by
      by_contra hlt
      exact hc (c % 4096) (List.mem_map.2 ⟨_, List.mem_range.2 (not_le.1 hlt), hback⟩) (Nat.mod_mod c 4096).symm
    rw [List.getElem?_eq_none hpast, Option.getD_none]
  · rfl

end Sys2Proof.Machine

namespace Sys2Proof.Proofs

open Sys2Proof.Machine Sys2Proof.Safety

/-- Settles O22: a `Step` appends the reports of the fetch and those of the word, so it is quiet when both are none. -/
theorem reportFreeExactlyWhenInBounds : Obligations.ReportFreeExactlyWhenInBounds := by
  intro s t hnext hstep
  rw [step_of_stepsNext hnext] at hstep
  cases hstep
  rw [Quiet, State.fetched_afterWord_outputs, List.append_right_eq_self, List.append_eq_nil_iff,
    rangeReports_fetch_eq_nil_iff, State.wordReports_eq_nil_iff]
  simp only [State.operandsInBounds_fetched_iff]

/-- Settles O30: the entry RET pops is the one CALL pushed, since nested calls leave the entries below sp. -/
theorem callThenRetResumesAfterTheCall : Obligations.CallThenRetResumesAfterTheCall := by
  intro nnn s t u hsp ht hspu hstack
  rw [exec_eq_next_iff, State.afterInstr_call_of_not_full nnn hsp] at ht
  subst ht
  have hsucc : u.sp.val = s.sp.val + 1 := congrArg Fin.val hspu
  have hne : u.sp.val ≠ 0 := by omega
  have htop : u.top hne = s.pc := State.top_eq_of_push hsp hne hsucc hstack
  have hpop : (u.pop hne).sp = s.sp := Fin.ext (by simp [hsucc])
  refine ⟨_, exec_eq .ret u, ?_⟩
  rw [State.afterInstr_ret_of_not_empty hne, htop]
  refine ⟨rfl, hpop, fun k hk => ?_, rfl, rfl⟩
  have hlt : k.val < s.sp.val := hpop ▸ hk
  exact (hstack k (by omega)).trans (Vector.getElem_set_ne hsp _ hlt.ne')

/-- Settles O31: the fetch reports nothing and has no schedule to shorten, and a jump to pc is no change. -/
theorem selfJumpIsAFixedPoint : Obligations.SelfJumpIsAFixedPoint := by
  intro s nnn hschedule hphase hpc hle hword
  have hnext : StepsNext s := ⟨.inl hschedule, by simp [hphase]⟩
  have hjp : s.pc = zext16 nnn := hpc
  have hdecode : decode s.fetchedWord = .ok (.jp nnn) := by rw [hword, decode_encode (Instr.wellFormed _)]
  rw [step_eq_exec_fetched hnext hdecode, exec_eq, State.afterInstr_jp,
    State.fetched_eq_self hschedule hphase (by rwa [hjp, zext16_toNat]), ← hjp, State.jumpTo_pc_self]

/-- Settles O57, by the answers of `State.loadEvent` on the rest of the schedule; the bounds of the last two clauses are
those of `loadFits` at the two bases of R192 and R193. -/
theorem loadCopiesTheImageOrFails : Obligations.LoadCopiesTheImageOrFails := by
  refine ⟨fun s rest image base hsch => ?_, fun len => ?_, fun len hlen => ?_⟩
  · rw [step_of_schedule_cons hsch]
    refine ⟨State.loadEvent_of_running { s with schedule := rest } base image, fun hphase => ⟨?_, ?_, ?_⟩⟩
    · rintro bytes rfl hfits
      refine ⟨_, State.loadEvent_of_fits { s with schedule := rest } base bytes hphase
        ((loadFits_eq_true_iff _ _).2 hfits), fun k hk => ?_, ?_, ?_⟩
      · exact State.pokeList_peek_add _ hfits.2 hk
      · exact State.pokeList_sameMemoryExcept _ hfits.2
      · exact congrArg (State.emit .loadSuccess) (State.pokeList_with_mem { s with schedule := rest } base bytes)
    · rintro bytes rfl hfits
      exact State.loadEvent_of_not_fits { s with schedule := rest } base bytes hphase
        (mt (loadFits_eq_true_iff _ _).1 hfits)
    · rintro rfl
      exact ⟨_, State.loadEvent_of_unreadable { s with schedule := rest } base hphase⟩
  · rw [loadFits_eq_true_iff]
    omega
  · rw [loadFits_eq_true_iff]
    omega

/-- Settles O58: the event is delivered on the rest of the schedule, which it keeps (logs 1 to 3). -/
theorem resetEventRestoresTheResetState : Obligations.ResetEventRestoresTheResetState :=
  fun _ _ h => step_of_schedule_cons h

end Sys2Proof.Proofs
end
